-- ==== Sys2Proof/Word.lean ====
section
/-! DEFINITION. The bit patterns of the block: a byte of host memory, an fp16 pattern, an fp32 pattern (spec/30 R85, R95, R96). -/

namespace Sys2Proof

/-- One byte of host memory (spec/20 R60). -/
abbrev Byte := BitVec 8

/-- An fp16 pattern, 16 bits (spec/30 R95). -/
abbrev Half := BitVec 16

/-- An fp32 pattern, 32 bits (spec/30 R96). -/
abbrev Single := BitVec 32

end Sys2Proof
end

