-- ==== Sys2Proof/Syntax.lean ====
section
/-! DEFINITION. The block's instructions (the 20 rows of spec/opcode_table.json), the encoded objects they are read from (spec/30 R85),
and the host's interactions (spec/70 R243, spec/30 R102). -/

namespace Sys2Proof

/-- One constructor per row of the opcode table. No row has an operand field (spec/30 R92): every operand is implicit in the state. -/
inductive Instr where
  -- host commands (CMD32)
  | multiply
  | ack
  -- micro-operations of the sequencer (UOP8, UNIT 1)
  | validateA
  | validateB
  | sizeOut
  | alloc
  | decodeA
  | decodeB
  | accClear
  | dispatch
  | join
  | encode
  | respondOk
  | respondFail
  -- micro-operations of a worker (UOP8, UNIT 2)
  | rowClaim
  | elemInit
  | group8
  | mac1
  | elemStore
  | rowDone
  deriving DecidableEq, Repr

/-- An encoded instruction: a command word or a micro-operation code (spec/30 R85 (1) and (2)). -/
inductive Code where
  | cmd32 (w : BitVec 32)
  | uop8 (c : BitVec 8)
  deriving DecidableEq, Repr

/-- The seven operand registers (spec/10 R33, R34). -/
inductive OperandReg where
  | aBase
  | aLen
  | bBase
  | bLen
  | m
  | n
  | k
  deriving DecidableEq, Repr

/-- The registers a host reads (spec/10 R40: every interface register). -/
inductive HostReg where
  | operand (r : OperandReg)
  | cmd
  | status
  | cBase
  | cLen
  | msg
  deriving DecidableEq, Repr

/-- A region of host memory: a base and a length in bytes (spec/10 R33, R45). -/
structure Region where
  base : Nat
  len : Nat
  deriving DecidableEq, Repr

/-- One interaction of the host with the block or with its memory (spec/70 R243, spec/30 R102). -/
inductive HostAction where
  /-- `WR`: write an operand register. -/
  | wr (r : OperandReg) (v : Nat)
  /-- Write STATUS, which has no effect (spec/10 R36). -/
  | wrStatus (v : BitVec 32)
  /-- Write a word to CMD: MULTIPLY, ACK or a reserved word. -/
  | cmd (w : BitVec 32)
  /-- `WAIT DONE`: the host does nothing until STATUS.PHASE reads DONE. -/
  | waitDone
  /-- `RD`: read a register. -/
  | rd (r : HostReg)
  /-- Place a byte in host memory (`DATA`, spec/70 R233 (1)). -/
  | poke (a : Nat) (b : Byte)
  /-- Read a byte of host memory (the result region, spec/70 R243). -/
  | peek (a : Nat)
  /-- Give a region the host owns back to the allocator (the model's own, log 9). -/
  | free (r : Region)
  deriving DecidableEq, Repr

end Sys2Proof
end

