-- ==== Sys2Proof/Decode.lean ====
section
/-! DEFINITION. Command words and micro-operation codes: the decoder and the encoder (spec/30 R86 to R91). -/

namespace Sys2Proof

/-- Why a code is no instruction. -/
inductive DecodeError where
  /-- A command word whose RSVD field is not zero (spec/30 R88). -/
  | reservedField (rsvd : BitVec 24)
  /-- A command word whose OP is unassigned (spec/30 R88). -/
  | reservedOp (op : BitVec 8)
  /-- A micro-operation code that is not in the table of spec/30 R90 (R91: unassigned). -/
  | unassigned (c : BitVec 8)
  deriving DecidableEq, Repr

/-- OP, bits 7:0 of a command word (spec/30 R86). -/
def cmdOp (w : BitVec 32) : BitVec 8 := w.extractLsb' 0 8

/-- RSVD, bits 31:8 of a command word (spec/30 R86). -/
def cmdRsvd (w : BitVec 32) : BitVec 24 := w.extractLsb' 8 24

/-- UNIT, bits 7:4 of a micro-operation code (spec/30 R89). -/
def uopUnit (c : BitVec 8) : BitVec 4 := c.extractLsb' 4 4

/-- OP, bits 3:0 of a micro-operation code (spec/30 R89). -/
def uopOp (c : BitVec 8) : BitVec 4 := c.extractLsb' 0 4

/-- A command word (spec/30 R87, R88). -/
def decodeCmd (w : BitVec 32) : Except DecodeError Instr :=
  if cmdRsvd w ≠ 0 then .error (.reservedField (cmdRsvd w))
  else if cmdOp w = 0x01 then .ok .multiply
  else if cmdOp w = 0x02 then .ok .ack
  else .error (.reservedOp (cmdOp w))

/-- The sequencer's micro-operation of an OP (spec/30 R90, UNIT 1). -/
def uopOfSequencer (op : Nat) : Option Instr :=
  match op with
  | 0x0 => some .validateA
  | 0x1 => some .validateB
  | 0x2 => some .sizeOut
  | 0x3 => some .alloc
  | 0x4 => some .decodeA
  | 0x5 => some .decodeB
  | 0x6 => some .accClear
  | 0x7 => some .dispatch
  | 0x8 => some .join
  | 0x9 => some .encode
  | 0xA => some .respondOk
  | 0xB => some .respondFail
  | _ => none

/-- A worker's micro-operation of an OP (spec/30 R90, UNIT 2). -/
def uopOfWorker (op : Nat) : Option Instr :=
  match op with
  | 0x0 => some .rowClaim
  | 0x1 => some .elemInit
  | 0x2 => some .group8
  | 0x3 => some .mac1
  | 0x4 => some .elemStore
  | 0x5 => some .rowDone
  | _ => none

/-- A micro-operation code (spec/30 R89, R90, R91). -/
def decodeUop (c : BitVec 8) : Except DecodeError Instr :=
  let found :=
    if uopUnit c = 1 then uopOfSequencer (uopOp c).toNat
    else if uopUnit c = 2 then uopOfWorker (uopOp c).toNat
    else none
  match found with
  | some i => .ok i
  | none => .error (.unassigned c)

/-- The instruction an encoded object is, or why it is none (spec/30 R85, R101: every code has one fixed width). -/
def decode : Code → Except DecodeError Instr
  | .cmd32 w => decodeCmd w
  | .uop8 c => decodeUop c

/-- The code of an instruction (spec/30 R87, R90). -/
def encode : Instr → Code
  | .multiply => .cmd32 0x00000001
  | .ack => .cmd32 0x00000002
  | .validateA => .uop8 0x10
  | .validateB => .uop8 0x11
  | .sizeOut => .uop8 0x12
  | .alloc => .uop8 0x13
  | .decodeA => .uop8 0x14
  | .decodeB => .uop8 0x15
  | .accClear => .uop8 0x16
  | .dispatch => .uop8 0x17
  | .join => .uop8 0x18
  | .encode => .uop8 0x19
  | .respondOk => .uop8 0x1A
  | .respondFail => .uop8 0x1B
  | .rowClaim => .uop8 0x20
  | .elemInit => .uop8 0x21
  | .group8 => .uop8 0x22
  | .mac1 => .uop8 0x23
  | .elemStore => .uop8 0x24
  | .rowDone => .uop8 0x25

/-- The encoded object a table row of so many bits stands for: 32 bits are a CMD write, 8 bits a micro-operation code (spec/30 R85). -/
def tableCode (nbits w : Nat) : Option Code :=
  if 2 ^ nbits ≤ w then none
  else if nbits = 32 then some (.cmd32 (BitVec.ofNat 32 w))
  else if nbits = 8 then some (.uop8 (BitVec.ofNat 8 w))
  else none

/-- The instruction the decoder reads from a row's bits, numbered as spec/opcode_table.json numbers them. -/
def decodeTableWord (nbits w : Nat) : Option Instr :=
  match tableCode nbits w with
  | none => none
  | some c =>
    match decode c with
    | .ok i => some i
    | .error _ => none

end Sys2Proof
end

