-- ==== Sys2Proof/Config.lean ====
section
/-! DEFINITION. What an implementation of the block fixes (the parameters of spec/00 R10 to R20), and the free values the spec leaves open. -/

namespace Sys2Proof

/-- SUM_ORDER, spec/42 R152: how GROUP8 joins eight products and the running sum. -/
inductive SumOrder where
  | grouped
  | linear
  | free
  deriving DecidableEq, Repr

/-- CHECK_ORDER, spec/40 R112: whether the shape check or the output-size check comes first. -/
inductive CheckOrder where
  | validateFirst
  | sizeFirst
  deriving DecidableEq, Repr

/-- SAT_READING, spec/43 R177: how an overflowing expected length is read. -/
inductive SatReading where
  | unrepresentable
  | maximal
  deriving DecidableEq, Repr

/-- NAN16TO32 and NAN32TO16, spec/41 R131 and spec/44 R191: the default map, which keeps the payload and sets the quiet bit,
or a map that is open but for what the rule demands (a NaN of the input's sign). -/
inductive NanMap where
  | quieting
  | uninterpreted
  deriving DecidableEq, Repr

/-- The parameters of one implementation. They stand in the machine's state and no step changes them, so a statement about every
state is a statement about every implementation (DESIGN CHOICE, log 2). `none` for a capacity or for `maxAllocBytes` means unbounded. -/
structure Config where
  /-- SIZE_W, spec/00 R10 (OPEN); ADDR_W equals it (R11). -/
  sizeW : Nat
  /-- W, spec/00 R12 (OPEN). -/
  workers : Nat
  sumOrder : SumOrder
  checkOrder : CheckOrder
  satReading : SatReading
  nan16to32 : NanMap
  nan32to16 : NanMap
  /-- MAX_ALLOC_BYTES, spec/00 R18 (OPEN). -/
  maxAllocBytes : Option Nat
  /-- DA_CAP, spec/00 R19 (OPEN). -/
  daCap : Option Nat
  /-- DB_CAP, spec/00 R19 (OPEN). -/
  dbCap : Option Nat
  /-- ACC_CAP, spec/00 R19 (OPEN). -/
  accCap : Option Nat
  /-- ADMIT_OTHER, spec/00 R20. -/
  admitOther : Bool
  deriving DecidableEq, Repr

/-- SIZE_MAX of spec/00 R10. -/
def Config.sizeMax (c : Config) : Nat := 2 ^ c.sizeW - 1

/-- The number of bytes of host memory, 2^ADDR_W (spec/20 R60, spec/00 R11). -/
def Config.addrSpace (c : Config) : Nat := 2 ^ c.sizeW

/-- The configuration of spec/95's "Unless stated" line, with the spec's defaults for the fields that have one (DESIGN CHOICE for the
OPEN ones, log 2). -/
def Config.standard : Config where
  sizeW := 64
  workers := 1
  sumOrder := .grouped
  checkOrder := .validateFirst
  satReading := .unrepresentable
  nan16to32 := .quieting
  nan32to16 := .quieting
  maxAllocBytes := none
  daCap := none
  dbCap := none
  accCap := none
  admitOther := false

/-! The free values. None has a body, so no proof can tell what it is. The first argument of a draw is the count of draws so far. -/

/-- Which enabled agent takes the step after draw `d` (spec/10 R30: any may; log 6). -/
opaque Config.schedule : Nat → Nat

/-- Which pending row ROW_CLAIM takes at draw `d` (spec/42 R148: any; log 7). -/
opaque Config.rowChoice : Nat → Nat

/-- The allocator's raw answer at draw `d` to a request of so many bytes (spec/40 R114; log 8). -/
opaque Config.allocAnswer : Nat → Nat → Option Nat

/-- The base of a zero-length result at draw `d` (spec/93 I14; log 23). -/
opaque Config.emptyBase : Nat → Nat

/-- The byte an unspecified region holds at an address after draw `d` (spec/93 I15; log 10). -/
opaque Config.regionByte : Nat → Nat → Byte

/-- The byte of host memory at an address that nothing has written (spec/10 R52: reset leaves host memory alone; log 5). -/
opaque Config.initialByte : Nat → Byte

/-- The pattern NAN_ARITH is made from, at draw `d` and operation `q` of the step (spec/42 R160; log 11). -/
opaque Config.nanArith : Nat → Nat → Single

/-- MSG of the Other step at draw `d` (spec/60 R208; log 14). -/
opaque Config.otherMessage : Nat → List Byte

/-- What a host read of an unspecified register gives at draw `d` (spec/10 R38, spec/93 I16; log 16). -/
opaque Config.unspecified : Nat → Nat

/-- What a host read of a byte of the result region gives before DONE, at draw `d` and an address (spec/20 R75 c; log 16). -/
opaque Config.earlyByte : Nat → Nat → Byte

/-- The pattern an open NAN16TO32 is made from (spec/41 R131; log 12). -/
opaque Config.openNan16to32 : Half → Single

/-- The pattern an open NAN32TO16 is made from (spec/44 R191; log 12). -/
opaque Config.openNan32to16 : Single → Half

/-- `group8` of SUM_ORDER = FREE: the running sum and the eight products (spec/42 R152; log 13). -/
opaque Config.group8 : Single → List Single → Single

end Sys2Proof
end

