-- ==== Sys2Proof/Machine/State.lean ====
section
/-! DEFINITION. The machine's state, everything the spec gives it, as plain data; the state after reset; the reasons a step stops. -/

namespace Sys2Proof.Machine

/-- The model-fault kinds of spec/60 R212, a closed set; raising one records it in FAULTS. -/
inductive FaultKind where
  /-- A register or store cell that nothing has written was read (MULTIPLY, GROUP8, MAC1, ENCODE). -/
  | unsetRead
  /-- The shape exceeds an internal store (ALLOC). -/
  | capacity
  /-- A buffer of SIZE_MAX bytes met an overflowing expected length under SAT_READING = MAXIMAL (VALIDATE_A, VALIDATE_B). -/
  | satMatch
  deriving DecidableEq, Repr

/-- The model-refusal reasons of spec/60 R213, a closed set; `refuse` sets REFUSED and does nothing else. -/
inductive RefuseReason where
  | cmdWhileBusy
  | range
  | ackNotDone
  | reservedCmd
  deriving DecidableEq, Repr

/-- Why the machine stops with a fault. -/
inductive Fault where
  /-- Raised by `step` alone, in a state whose FAULTS is not empty, when only the block could move or the host writes a command: spec/60
  R212, "no agent of the block has an enabled step". Safe: nothing is claimed of what comes after. -/
  | halted (kind : FaultKind)
  /-- Raised by DECODE_A, DECODE_B, ENCODE and by the host's memory reads and writes, for an address that does not exist (spec/20 R60). Safe;
  no run of the block reaches it (spec/30 R94). -/
  | noSuchAddress
  deriving DecidableEq, Repr

/-- Why the machine gives no meaning. -/
inductive Refusal where
  /-- Raised by exec's arm of an instruction that has no meaning yet. Safe. -/
  | notModelled (mnemonic : String)
  /-- Raised by a worker micro-operation whose operand form `WK[w] = ROW(...)` the worker's state does not have (spec/42 R165: the worker's
  only enabled micro-operation is another one). Safe; `step` never performs one. -/
  | notEnabled
  /-- Raised by ENCODE and RESPOND_OK when OUT is none: there is no region to name (spec/10 R45). Safe; no run reaches it. -/
  | noResultRegion
  /-- Raised by a host interaction that breaks a duty of spec/70 R243 (an input byte written during a call, a byte of a region the block owns
  written, a region freed that the host does not own): "a run that breaks one is not modelled". Safe. -/
  | hostDuty
  /-- Raised by a host write of more than SIZE_W bits to an operand register (spec/70 R243: "a SIZE_W-bit value"). Safe. -/
  | tooWide
  deriving DecidableEq, Repr

/-- SEQ, the sequencer's next micro-operation (spec/10 R41). -/
inductive Seq where
  | idle
  | validateA
  | validateB
  | sizeOut
  | alloc
  | decodeA
  | decodeB
  | accClear
  | dispatch
  | join
  | encode
  | respondOk
  | respondFail
  | done
  deriving DecidableEq, Repr

/-- The seven operand registers; `none` is the spec's "unset" (spec/10 R33, R34, R52; log 24). -/
structure OperandRegs where
  aBase : Option Nat
  aLen : Option Nat
  bBase : Option Nat
  bLen : Option Nat
  m : Option Nat
  n : Option Nat
  k : Option Nat
  deriving DecidableEq, Repr

/-- The argument latch ARG (spec/10 R37). -/
structure Arg where
  aBase : Nat
  aLen : Nat
  bBase : Nat
  bLen : Nat
  m : Nat
  n : Nat
  k : Nat
  deriving DecidableEq, Repr

/-- A cell of an internal store: unset, or an fp32 pattern (spec/10 R43). -/
abbrev Cell := Option Single

/-- A worker's state: IDLE, or ROW(i, j, p, s) with s unset or an fp32 pattern (spec/10 R47). -/
inductive Worker where
  | idle
  | row (i j p : Nat) (s : Option Single)
  deriving DecidableEq, Repr

/-- Host memory: the bytes something has written, by rising address. An address not listed has no value of the model's (log 5). -/
abbrev Memory := List Host.Cell

/-- What the host's last read returned (the model's own, log 16). -/
inductive ReadData where
  | nothing
  | num (v : Nat)
  | text (bs : List Byte)
  | byte (b : Byte)
  deriving DecidableEq, Repr

/-- An agent that can take a step (spec/10 R30), and the Other step of spec/60 R208. -/
inductive Agent where
  | host
  | sequencer
  | other
  | worker (w : Nat)
  deriving DecidableEq, Repr

/-- Everything the spec gives the machine, and the model's own `host`, `rdata`, `live`, `cur`, `pick` and `draws`. -/
structure State where
  /-- The implementation's parameters, which no step changes (log 2). -/
  cfg : Config
  /-- A_BASE, A_LEN, B_BASE, B_LEN, M, N, K. -/
  regs : OperandRegs
  /-- ARG. -/
  arg : Arg
  /-- SEQ; STATUS.PHASE is a function of it. -/
  seq : Seq
  /-- STATUS.CODE (spec/10 R36). -/
  code : BitVec 8
  /-- C_BASE (spec/10 R38). -/
  cBase : Nat
  /-- C_LEN (spec/10 R38). -/
  cLen : Nat
  /-- MSG (spec/10 R39). -/
  msg : List Byte
  /-- FAILCODE (spec/10 R42). -/
  failCode : BitVec 8
  /-- OUT_REQ (spec/10 R45). -/
  outReq : Nat
  /-- OUT (spec/10 R45). -/
  out : Option Region
  /-- DA (spec/10 R43). -/
  da : List Cell
  /-- DB (spec/10 R43). -/
  db : List Cell
  /-- ACC (spec/10 R44). -/
  acc : List Cell
  /-- ROWS_PENDING (spec/10 R46). -/
  rowsPending : List Nat
  /-- ROWS_DONE (spec/10 R46). -/
  rowsDone : List Nat
  /-- WK[0] .. WK[W-1] (spec/10 R47). -/
  wk : List Worker
  /-- FAULTS (spec/10 R48), each kind at most once. -/
  faults : List FaultKind
  /-- The refusal reasons recorded, each at most once; REFUSED is "not empty" (spec/10 R48; log 25). -/
  refusals : List RefuseReason
  /-- HOST (spec/20 R60). -/
  mem : Memory
  /-- The host's interactions still to come, oldest first (the model's own, log 15). -/
  host : List HostAction
  /-- What the host's last read returned (the model's own, log 16). -/
  rdata : ReadData
  /-- The regions the allocator has handed out and not got back (the model's own, log 9). -/
  live : List Region
  /-- The worker that takes the present worker step (the model's own, log 6). -/
  cur : Nat
  /-- Which enabled agent moves next (the model's own, log 6). -/
  pick : Nat
  /-- How many free values have been drawn (the model's own, log 11). -/
  draws : Nat
  deriving DecidableEq, Repr

/-- No operand register written (spec/10 R52). -/
def OperandRegs.unset : OperandRegs := ⟨none, none, none, none, none, none, none⟩

/-- The latch's value at reset, which the spec leaves unspecified (DESIGN CHOICE, unsafe, log 4). -/
def Arg.zero : Arg := ⟨0, 0, 0, 0, 0, 0, 0⟩

/-- The reset table of spec/10 R52 for an implementation `c`. C_BASE, C_LEN, ARG, FAILCODE and OUT_REQ are unspecified there and 0 here
(DESIGN CHOICE, unsafe, log 4); the model's own fields are DESIGN CHOICE (log 6, 9, 11, 15, 16). -/
def State.resetWith (c : Config) : State where
  cfg := c
  regs := .unset
  arg := .zero
  seq := .idle
  code := 0
  cBase := 0
  cLen := 0
  msg := []
  failCode := 0
  outReq := 0
  out := none
  da := []
  db := []
  acc := []
  rowsPending := []
  rowsDone := []
  wk := List.replicate c.workers .idle
  faults := []
  refusals := []
  mem := []
  host := []
  rdata := .nothing
  live := []
  cur := 0
  pick := 0
  draws := 0

/-- The machine right after reset (spec/70 R230), as the configuration of spec/95's vectors. -/
def State.reset : State := .resetWith .standard

end Sys2Proof.Machine
end

