-- ==== Sys2Proof/WellFormed.lean ====
section
/-! DEFINITION. Which configurations, instructions and host interactions are well formed. -/

namespace Sys2Proof

/-- SIZE_W is a positive integer and there is at least one worker (spec/00 R10, R12). -/
abbrev Config.wf (c : Config) : Prop := 0 < c.sizeW ∧ 0 < c.workers

/-- Every instruction is well formed: none has an operand field (spec/30 R92). -/
def Instr.wf (_ : Instr) : Bool := true

/-- A register is written with a SIZE_W-bit value, and a byte is placed at, read from or freed at addresses that exist
(spec/70 R243, spec/20 R60, R68). -/
def HostAction.wf (c : Config) : HostAction → Bool
  | .wr _ v => v ≤ c.sizeMax
  | .poke a _ => a < c.addrSpace
  | .peek a => a < c.addrSpace
  | .free r => r.base + r.len ≤ c.addrSpace
  | _ => true

end Sys2Proof
end

