-- ==== Sys2Proof/Machine/Ops.lean ====
section
/-! DEFINITION. The named operations on the state: host memory, store cells, workers and rows, draws, ending a call with a failure, a model
fault or a refusal, the sequencer's order, the allocator, the end of a call. -/

namespace Sys2Proof

/-! ### Regions of host memory (spec/20 R68, R69) -/

/-- A descriptor is in range: exact sum, no wrap-around (spec/20 R68). -/
def Region.inRange (r : Region) (c : Config) : Bool := r.base + r.len ≤ c.addrSpace

/-- No byte in common; a region of length 0 has none. -/
def Region.disjoint (r t : Region) : Bool :=
  r.len = 0 ∨ t.len = 0 ∨ r.base + r.len ≤ t.base ∨ t.base + t.len ≤ r.base

/-- Whether `a` is the address of a byte of the region. -/
def Region.holds (r : Region) (a : Nat) : Bool := r.base ≤ a ∧ a < r.base + r.len

end Sys2Proof

namespace Sys2Proof.Machine

/-! ### Host memory (spec/20 R60, R63, R64) -/

/-- Addresses rise strictly. -/
def Memory.wf : Memory → Bool
  | [] => true
  | [_] => true
  | (a, _) :: (b, y) :: t => decide (a < b) && Memory.wf ((b, y) :: t)

/-- The byte something has written at `a`; `none` where nothing has (the one meaning of an address not listed, log 5). -/
def Memory.read (a : Nat) : Memory → Option Byte
  | [] => none
  | (x, b) :: t => if x = a then some b else Memory.read a t

/-- Write one byte, keeping the addresses rising. -/
def Memory.write (a : Nat) (v : Byte) : Memory → Memory
  | [] => [(a, v)]
  | (x, b) :: t => if a < x then (a, v) :: (x, b) :: t else if a = x then (a, v) :: t else (x, b) :: Memory.write a v t

/-- The byte of host memory at `a`: what was written there last, or a free value of the address where nothing was (spec/20 R66: rereading
returns the same byte; log 5). -/
def Memory.byteAt (m : Memory) (a : Nat) : Byte := (Memory.read a m).getD (Config.initialByte a)

/-- `MemRead(a, 2)` (spec/00 R26): the low byte at the lower address (spec/20 R63). -/
def Memory.read16 (m : Memory) (a : Nat) : Half := m.byteAt (a + 1) ++ m.byteAt a

/-- `MemWrite(a, 2, h)` (spec/00 R26): the low byte at the lower address (spec/20 R63). -/
def Memory.write16 (m : Memory) (a : Nat) (h : Half) : Memory :=
  Memory.write (a + 1) (h.extractLsb' 8 8) (Memory.write a (h.extractLsb' 0 8) m)

/-- Write fp16 patterns one after another from `a` on (spec/44 R195). -/
def Memory.writeHalves (m : Memory) (a : Nat) : List Half → Memory
  | [] => m
  | h :: hs => Memory.writeHalves (m.write16 a h) (a + 2) hs

/-- Give each of the `len` bytes from `a` on the byte `f` names for its address. -/
def Memory.fill (f : Nat → Byte) (m : Memory) (a : Nat) : Nat → Memory
  | 0 => m
  | len + 1 => Memory.fill f (Memory.write a (f a) m) (a + 1) len

/-! ### The input buffers -/

/-- The input buffer a of the call (spec/20 R62). -/
def Arg.bufferA (g : Arg) : Region := ⟨g.aBase, g.aLen⟩

/-- The input buffer b of the call (spec/20 R62). -/
def Arg.bufferB (g : Arg) : Region := ⟨g.bBase, g.bLen⟩

/-! ### Store cells (spec/10 R43, R44) -/

/-- The pattern in cell `i` of a store; `none` where the cell is unset or there is no such cell. -/
def cellAt (cells : List Cell) (i : Nat) : Cell := (cells[i]?).getD none

/-- Overwrite the first cells of a store with values, in order. A store keeps its length (log 22). -/
def overwrite : List Single → List Cell → List Cell
  | v :: vs, _ :: cs => some v :: overwrite vs cs
  | _, cs => cs

/-- The patterns in the first `n` cells; `none` where one of them is unset. -/
def readCells : List Cell → Nat → Option (List Single)
  | _, 0 => some []
  | some v :: cs, n + 1 =>
    match readCells cs n with
    | some vs => some (v :: vs)
    | none => none
  | _, _ + 1 => none

/-- `n` cells, all unset. -/
def unsetCells (n : Nat) : List Cell := List.replicate n none

/-! ### Sets kept as lists without repeats -/

/-- Add an element to a set. -/
def insertNew {α : Type} [DecidableEq α] (x : α) (xs : List α) : List α := if x ∈ xs then xs else xs ++ [x]

/-- The set is {0, 1, ..., m-1}. -/
def isAllRows (m : Nat) (xs : List Nat) : Bool :=
  (List.range m).all (fun i => decide (i ∈ xs)) && xs.all (fun i => decide (i < m))

/-! ### Draws, the sequencer's position, the worker at work -/

/-- A free value has been drawn. -/
def State.drawn (s : State) : State := { s with draws := s.draws + 1 }

/-- `seq <- x` (spec/00 R25). -/
def State.setSeq (s : State) (x : Seq) : State := { s with seq := x }

/-- `WK[cur] <- x` (spec/00 R25), for the worker whose step it is. -/
def State.setWorker (s : State) (x : Worker) : State := { s with wk := s.wk.set s.cur x }

/-- `WK[cur]`. -/
def State.worker (s : State) : Option Worker := s.wk[s.cur]?

/-! ### Failure, model fault, refusal (spec/00 R27): the ways a step departs from its course -/

/-- `raise Failure(code)` (spec/00 R27, spec/60 R207, R211): FAILCODE and SEQ are written and nothing else. -/
def State.raiseFailure (s : State) (code : BitVec 8) : State := { s with failCode := code, seq := .respondFail }

/-- `raise Fault(kind)` (spec/60 R212): the kind is recorded; from then on no agent of the block has a step. -/
def State.raiseFault (s : State) (kind : FaultKind) : State := { s with faults := insertNew kind s.faults }

/-- `refuse(reason)` (spec/60 R213): REFUSED is set and nothing else. -/
def State.refuse (s : State) (reason : RefuseReason) : State := { s with refusals := insertNew reason s.refusals }

/-- REFUSED (spec/10 R48). -/
def State.refused (s : State) : Bool := !s.refusals.isEmpty

/-- BAD_ARGUMENT, spec/60 R205. -/
def codeBadArgument : BitVec 8 := 1
/-- OVERFLOW, spec/60 R205. -/
def codeOverflow : BitVec 8 := 2
/-- ALLOCATION_FAILED, spec/60 R205. -/
def codeAllocationFailed : BitVec 8 := 3
/-- OTHER, spec/60 R205. -/
def codeOther : BitVec 8 := 4

/-- The return from a call, failed or not (spec/40 R117, spec/60 R224, spec/10 R53): the block is again as after reset but for the
registers. The row pool is emptied here too, which R53 says and the pseudocode of R117 does not (DEDUCED, log 18). -/
def State.endCall (s : State) : State :=
  { s with out := none, code := 0, msg := [], seq := .idle, rowsPending := [], rowsDone := [] }

/-! ### The sequencer's order (spec/40 R112) -/

/-- The first micro-operation of a call. -/
def firstSeq : CheckOrder → Seq
  | .validateFirst => .validateA
  | .sizeFirst => .sizeOut

/-- next(X), the table of spec/40 R112. IDLE and DONE are not micro-operations and have no row there. -/
def nextSeq (o : CheckOrder) : Seq → Seq
  | .validateA => .validateB
  | .validateB =>
    match o with
    | .validateFirst => .sizeOut
    | .sizeFirst => .alloc
  | .sizeOut =>
    match o with
    | .validateFirst => .alloc
    | .sizeFirst => .validateA
  | .alloc => .decodeA
  | .decodeA => .decodeB
  | .decodeB => .accClear
  | .accClear => .dispatch
  | .dispatch => .join
  | .join => .encode
  | .encode => .respondOk
  | .respondOk => .done
  | .respondFail => .done
  | .idle => .idle
  | .done => .done

/-- `seq <- next(X)`. -/
def State.goNext (s : State) (x : Seq) : State := s.setSeq (nextSeq s.cfg.checkOrder x)

/-! ### The allocator (spec/40 R114, spec/70 R243 duty H3; log 8, 9, 10) -/

/-- Whether a size is within an optional bound; `none` is no bound. -/
def within (n : Nat) : Option Nat → Bool
  | none => true
  | some b => n ≤ b

/-- An answer the allocator may give: in range and disjoint from both input buffers and from every live region (spec/20 R69). -/
def State.mayAllocate (s : State) (r : Region) : Bool :=
  r.inRange s.cfg && r.disjoint s.arg.bufferA && r.disjoint s.arg.bufferB && s.live.all (fun t => r.disjoint t)

/-- `ALLOC.request(len)`: a base address or none. The raw answer is free; one the allocator may not give is read as none, so that every
answer it may give, and no other, can come (log 8). A request over MAX_ALLOC_BYTES always fails. -/
def State.request (s : State) (len : Nat) : Option Nat :=
  if within len s.cfg.maxAllocBytes then
    match Config.allocAnswer s.draws len with
    | none => none
    | some base => if s.mayAllocate ⟨base, len⟩ then some base else none
  else none

/-- The bytes of a region become unspecified (spec/40 R114, R116: a draw each; log 10). -/
def State.unspecify (s : State) (r : Region) : State :=
  { s with mem := Memory.fill (Config.regionByte s.draws) s.mem r.base r.len, draws := s.draws + 1 }

/-- The allocator hands out a region as OUT. -/
def State.grant (s : State) (r : Region) : State :=
  { s.unspecify r with out := some r, live := r :: s.live }

/-- `ALLOC.release(OUT); OUT <- none`, where OUT is not none (spec/40 R116). -/
def State.release (s : State) : State :=
  match s.out with
  | none => s
  | some r => { s.unspecify r with out := none, live := s.live.erase r }

end Sys2Proof.Machine
end

