-- ==== Sys2Proof/Machine/Flags.lean ====
section
/-! DEFINITION. The block keeps no flag and no condition code (spec/10 R49). What it shows the host of a call is STATUS: the phase, computed
from SEQ, and the code (spec/10 R36, R41). -/

namespace Sys2Proof.Machine

/-- STATUS.PHASE (spec/10 R41): 0 IDLE, 1 BUSY, 2 DONE. -/
def Seq.phase : Seq → BitVec 2
  | .idle => 0
  | .done => 2
  | _ => 1

/-- STATUS (spec/10 R36): CODE in bits 15:8, PHASE in bits 1:0, every other bit 0. -/
def State.status (s : State) : BitVec 32 := (0 : BitVec 16) ++ s.code ++ (0 : BitVec 6) ++ s.seq.phase

/-- PHASE is BUSY. -/
def State.busy (s : State) : Bool := s.seq.phase = 1

end Sys2Proof.Machine
end

