-- ==== Sys2Proof/Machine/Float.lean ====
section
/-! DEFINITION. The fp16 and fp32 formats, the two conversions and fp32 addition and multiplication (spec/30 R95 to R98, spec/41 R130, R131,
spec/42 R152, R157 to R160, spec/44 R189, R191). Values are exact integers in units of 2^-24 (fp16) and 2^-149 (fp32). -/

namespace Sys2Proof

/-! ### The formats -/

/-- S, bit 15 (spec/30 R95). -/
def Half.sign (h : Half) : Nat := h.toNat / 2 ^ 15
/-- E, bits 14:10 (spec/30 R95). -/
def Half.exp (h : Half) : Nat := h.toNat / 2 ^ 10 % 2 ^ 5
/-- F, bits 9:0 (spec/30 R95). -/
def Half.frac (h : Half) : Nat := h.toNat % 2 ^ 10
/-- The pattern with fields s, e, f (spec/30 R95); a carry out of f goes into e. -/
def Half.pack (s e f : Nat) : Half := BitVec.ofNat 16 (s * 2 ^ 15 + e * 2 ^ 10 + f)

/-- S, bit 31 (spec/30 R96). -/
def Single.sign (x : Single) : Nat := x.toNat / 2 ^ 31
/-- E, bits 30:23 (spec/30 R96). -/
def Single.exp (x : Single) : Nat := x.toNat / 2 ^ 23 % 2 ^ 8
/-- F, bits 22:0 (spec/30 R96). -/
def Single.frac (x : Single) : Nat := x.toNat % 2 ^ 23
/-- The pattern with fields s, e, f (spec/30 R96); a carry out of f goes into e. -/
def Single.pack (s e f : Nat) : Single := BitVec.ofNat 32 (s * 2 ^ 31 + e * 2 ^ 23 + f)

/-- NaN, spec/30 R97. -/
def Half.isNan (h : Half) : Bool := Half.exp h = 31 ∧ Half.frac h ≠ 0
/-- Infinity, spec/30 R97. -/
def Half.isInf (h : Half) : Bool := Half.exp h = 31 ∧ Half.frac h = 0
/-- Zero, subnormal or normal, spec/30 R97. -/
def Half.isFinite (h : Half) : Bool := Half.exp h ≠ 31
/-- NaN, spec/30 R98. -/
def Single.isNan (x : Single) : Bool := Single.exp x = 255 ∧ Single.frac x ≠ 0
/-- Infinity, spec/30 R98. -/
def Single.isInf (x : Single) : Bool := Single.exp x = 255 ∧ Single.frac x = 0
/-- Zero, subnormal or normal, spec/30 R98. -/
def Single.isFinite (x : Single) : Bool := Single.exp x ≠ 255
/-- Plus or minus zero, spec/30 R98. -/
def Single.isZero (x : Single) : Bool := Single.exp x = 0 ∧ Single.frac x = 0

/-- |val(h)| of a finite fp16 pattern in units of 2^-24 (spec/30 R97). -/
def Half.mag (h : Half) : Nat :=
  if Half.exp h = 0 then Half.frac h else (2 ^ 10 + Half.frac h) * 2 ^ (Half.exp h - 1)

/-- |val(x)| of a finite fp32 pattern in units of 2^-149 (spec/30 R98). -/
def Single.mag (x : Single) : Nat :=
  if Single.exp x = 0 then Single.frac x else (2 ^ 23 + Single.frac x) * 2 ^ (Single.exp x - 1)

/-- val(h) of a finite fp16 pattern in units of 2^-24. -/
def Half.val (h : Half) : Int := if Half.sign h = 0 then (Half.mag h : Int) else -(Half.mag h : Int)

/-- val(x) of a finite fp32 pattern in units of 2^-149. -/
def Single.val (x : Single) : Int := if Single.sign x = 0 then (Single.mag x : Int) else -(Single.mag x : Int)

/-- +0.0 (spec/00 R24). -/
def Single.posZero : Single := 0x00000000
/-- -0.0. -/
def Single.negZero : Single := 0x80000000

/-! ### NaN patterns -/

/-- An fp32 NaN of sign `s` whose fraction is `f`, or the quiet bit alone where `f` is zero: every fp32 NaN is one of these. -/
def Single.nanOf (s f : Nat) : Single := Single.pack s 255 (if f = 0 then 2 ^ 22 else f)

/-- An fp16 NaN of sign `s` whose fraction is `f`, or the quiet bit alone where `f` is zero. -/
def Half.nanOf (s f : Nat) : Half := Half.pack s 31 (if f = 0 then 2 ^ 9 else f)

/-- NAN16TO32 (spec/41 R131): the default keeps the payload and sets the quiet bit; the open map is any NaN of the input's sign. -/
def nan16to32 (mode : NanMap) (h : Half) : Single :=
  match mode with
  | .quieting => BitVec.ofNat 32 (Half.sign h * 2 ^ 31) ||| 0x7FC00000 ||| BitVec.ofNat 32 (Half.frac h * 2 ^ 13)
  | .uninterpreted => Single.nanOf (Half.sign h) (Single.frac (Config.openNan16to32 h))

/-- NAN32TO16 (spec/44 R191): the default keeps the top payload bits and sets the quiet bit; the open map is any NaN of the input's sign. -/
def nan32to16 (mode : NanMap) (x : Single) : Half :=
  match mode with
  | .quieting => BitVec.ofNat 16 (Single.sign x * 2 ^ 15) ||| 0x7E00 ||| BitVec.ofNat 16 (Single.frac x / 2 ^ 13)
  | .uninterpreted => Half.nanOf (Single.sign x) (Half.frac (Config.openNan32to16 x))

/-- NAN_ARITH (spec/42 R160): some fp32 NaN, free in sign and payload, for draw `d` and operation `q` (log 11). -/
def arithNan (d q : Nat) : Single :=
  Single.nanOf (Single.sign (Config.nanArith d q)) (Single.frac (Config.nanArith d q))

/-! ### Rounding and the conversions -/

/-- `mag / 2^sh` rounded to the nearest integer, ties to even (spec/42 R157, spec/44 R189). -/
def roundEven (mag sh : Nat) : Nat :=
  let q := mag / 2 ^ sh
  let rem := mag % 2 ^ sh
  if 2 ^ sh < 2 * rem ∨ (2 * rem = 2 ^ sh ∧ q % 2 = 1) then q + 1 else q

/-- DEC16 (spec/41 R130). -/
def dec16 (mode : NanMap) (h : Half) : Single :=
  if Half.exp h = 31 then
    if Half.frac h = 0 then Single.pack (Half.sign h) 255 0 else nan16to32 mode h
  else if Half.exp h = 0 then
    if Half.frac h = 0 then Single.pack (Half.sign h) 0 0
    else
      let t := Nat.log2 (Half.frac h)
      Single.pack (Half.sign h) (t + 103) (Half.frac h * 2 ^ (23 - t) % 2 ^ 23)
  else Single.pack (Half.sign h) (Half.exp h + 112) (Half.frac h * 2 ^ 13)

/-- ENC16 (spec/44 R189). The rule's E is `Single.exp x - 127`: E > 15 is a field over 142, E ≥ -14 a field of 113 or more, E < -25 a field
under 102, E + 15 is the field less 112, and -(E + 1) is 126 less the field. -/
def enc16 (mode : NanMap) (x : Single) : Half :=
  let s := Single.sign x
  let e := Single.exp x
  let m := Single.frac x
  if e = 255 then
    if m = 0 then Half.pack s 31 0 else nan32to16 mode x
  else if e = 0 then Half.pack s 0 0
  else if 142 < e then Half.pack s 31 0
  else if 113 ≤ e then Half.pack s (e - 112) (roundEven m 13)
  else if e < 102 then Half.pack s 0 0
  else Half.pack s 0 (roundEven (2 ^ 23 + m) (126 - e))

/-- fl32 (spec/42 R157) of the exact non-zero real of sign `s` and magnitude `mag * 2^-sc`, for `sc` of 149 or more. The grid's step is
2^(sh - sc), where `sh` leaves 24 significant bits or, below the normal range, the multiples of 2^-149. -/
def fl32 (s mag sc : Nat) : Single :=
  let sh := max (Nat.log2 mag - 23) (sc - 149)
  let bits := (sh - (sc - 149)) * 2 ^ 23 + roundEven mag sh
  if 255 * 2 ^ 23 ≤ bits then Single.pack s 255 0 else Single.pack s 0 bits

/-- fp32 addition `x +f y` (spec/42 R158); `nan` is the NaN it returns when it returns one (R160). -/
def fadd (nan x y : Single) : Single :=
  if Single.isNan x || Single.isNan y then nan
  else if Single.isInf x && Single.isInf y && decide (Single.sign x ≠ Single.sign y) then nan
  else if Single.isInf x then x
  else if Single.isInf y then y
  else
    let q := Single.val x + Single.val y
    if q ≠ 0 then fl32 (if q < 0 then 1 else 0) q.natAbs 149
    else if x = Single.negZero ∧ y = Single.negZero then Single.negZero
    else Single.posZero

/-- fp32 multiplication `x *f y` (spec/42 R159); `nan` is the NaN it returns when it returns one (R160). -/
def fmul (nan x y : Single) : Single :=
  if Single.isNan x || Single.isNan y then nan
  else if (Single.isInf x && Single.isZero y) || (Single.isZero x && Single.isInf y) then nan
  else
    let s := (Single.sign x + Single.sign y) % 2
    if Single.isInf x || Single.isInf y then Single.pack s 255 0
    else
      let q := Single.mag x * Single.mag y
      if q = 0 then Single.pack s 0 0 else fl32 s q 298

/-! ### The group of eight -/

/-- `t +f x +f ...` from left to right; `nan q` is the NaN of the step's operation `q`, the first addition being operation `q`. -/
def sumFrom (nan : Nat → Single) (q : Nat) (t : Single) : List Single → Single
  | [] => t
  | x :: xs => sumFrom nan (q + 1) (fadd (nan q) t x) xs

/-- GROUP8's combination of the running sum and the eight products, by SUM_ORDER (spec/42 R152). The products are operations 0 to 7 of the
step and the additions operations 8 to 15. -/
def combine (order : SumOrder) (nan : Nat → Single) (s : Single) (ps : List Single) : Single :=
  match order with
  | .grouped =>
    match ps with
    | [] => s
    | p :: rest => fadd (nan 15) s (sumFrom nan 8 p rest)
  | .linear => sumFrom nan 8 s ps
  | .free => Config.group8 s ps

end Sys2Proof
end

