-- ==== Sys2Proof/Machine/Operands.lean ====
section
/-! DEFINITION. Operand forms: the operand registers and their latch, the length computations, element addresses, the elements read from
memory, the products, and a worker's operand forms. -/

namespace Sys2Proof.Machine

/-! ### Operand registers -/

/-- `R.NAME` for the seven operand registers (spec/00 R25). -/
def OperandRegs.get (r : OperandRegs) : OperandReg → Option Nat
  | .aBase => r.aBase
  | .aLen => r.aLen
  | .bBase => r.bBase
  | .bLen => r.bLen
  | .m => r.m
  | .n => r.n
  | .k => r.k

/-- `R.NAME <- v` for the seven operand registers (spec/00 R25). -/
def OperandRegs.set (r : OperandRegs) (name : OperandReg) (v : Nat) : OperandRegs :=
  match name with
  | .aBase => { r with aBase := some v }
  | .aLen => { r with aLen := some v }
  | .bBase => { r with bBase := some v }
  | .bLen => { r with bLen := some v }
  | .m => { r with m := some v }
  | .n => { r with n := some v }
  | .k => { r with k := some v }

/-- The values MULTIPLY latches; `none` when a register was never written since reset (spec/40 R110). -/
def OperandRegs.latch (r : OperandRegs) : Option Arg :=
  match r.aBase, r.aLen, r.bBase, r.bLen, r.m, r.n, r.k with
  | some aBase, some aLen, some bBase, some bLen, some m, some n, some k => some ⟨aBase, aLen, bBase, bLen, m, n, k⟩
  | _, _, _, _, _, _, _ => none

/-! ### Lengths (spec/43 R175, R176; spec/44 R187) -/

/-- satmul; `none` is the marker SAT (spec/43 R175). -/
def satmul (c : Config) (a b : Option Nat) : Option Nat :=
  match a, b with
  | some x, some y => if c.sizeMax < x * y then none else some (x * y)
  | _, _ => none

/-- The expected byte length of an r×c fp16 matrix (spec/43 R176). -/
def expectedLen (c : Config) (rows cols : Nat) : Option Nat := satmul c (satmul c (some rows) (some cols)) (some 2)

/-- lenOK (spec/43 R176). -/
def lenOK (c : Config) (len rows cols : Nat) : Bool :=
  match expectedLen c rows cols with
  | some x => len = x
  | none =>
    match c.satReading with
    | .unrepresentable => false
    | .maximal => len = c.sizeMax

/-- The condition of SAT_MATCH (spec/43 R177, R178). -/
def satMatches (c : Config) (len rows cols : Nat) : Bool :=
  (expectedLen c rows cols).isNone && decide (c.satReading = .maximal) && decide (len = c.sizeMax)

/-- checked_mul; `none` is the indication OVF (spec/44 R187). -/
def checkedMul (c : Config) (a b : Nat) : Option Nat := if c.sizeMax < a * b then none else some (a * b)

/-! ### Element addresses (spec/30 R93) -/

/-- addrA(i, p). -/
def Arg.addrA (g : Arg) (i p : Nat) : Nat := g.aBase + 2 * (i * g.k + p)

/-- addrB(p, j). -/
def Arg.addrB (g : Arg) (p j : Nat) : Nat := g.bBase + 2 * (p * g.n + j)

/-- addrC(i, j), for a result region at `base`. -/
def Arg.addrC (g : Arg) (base i j : Nat) : Nat := base + 2 * (i * g.n + j)

/-- The decoded elements of a buffer, in order: whole 2-byte groups only (spec/41 R133, R135). -/
def decodeElems (c : Config) (m : Memory) (base cnt : Nat) : List Single :=
  (List.range cnt).map (fun e => dec16 c.nan16to32 (m.read16 (base + 2 * e)))

/-! ### Products (spec/42, head of the file) -/

/-- prod(i, j, p), the NaN of operation `q` standing where a NaN arises; `none` where a cell is unset. -/
def product (s : State) (i j p : Nat) (nan : Single) : Option Single :=
  match cellAt s.da (i * s.arg.k + p), cellAt s.db (p * s.arg.n + j) with
  | some a, some b => some (fmul nan a b)
  | _, _ => none

/-- prod(i, j, p + q), prod(i, j, p + q + 1), ..., `cnt` of them; `none` where a cell is unset. -/
def products (s : State) (nan : Nat → Single) (i j p : Nat) : Nat → Nat → Option (List Single)
  | _, 0 => some []
  | q, cnt + 1 =>
    match product s i j (p + q) (nan q) with
    | none => none
    | some x =>
      match products s nan i j p (q + 1) cnt with
      | none => none
      | some xs => some (x :: xs)

/-! ### A worker's operand form (spec/42 R165) -/

/-- The only enabled micro-operation of a worker in state ROW(i, j, p, s). -/
def rowUop (g : Arg) (j p : Nat) (s : Option Single) : Instr :=
  match s with
  | none => if j < g.n then .elemInit else .rowDone
  | some _ => if p + 8 ≤ g.k then .group8 else if p < g.k then .mac1 else .elemStore

/-- Worker w's only enabled micro-operation, chosen from its state (spec/42 R165). -/
def workerStep (s : State) (w : Nat) : Option Instr :=
  match s.wk[w]? with
  | none => none
  | some .idle => if s.seq = .join ∧ s.rowsPending ≠ [] then some .rowClaim else none
  | some (.row _ j p v) => some (rowUop s.arg j p v)

end Sys2Proof.Machine
end

