-- ==== Sys2Proof/Machine/Command.lean ====
section
/-! DEFINITION. The host commands MULTIPLY and ACK, and the sequencer's own micro-operations ALLOC, RESPOND_OK and RESPOND_FAIL (spec/40). -/

namespace Sys2Proof.Machine

/-- The call starts on the latched arguments (spec/40 R110, the accepting path). -/
def State.startCall (s : State) (g : Arg) : State :=
  { s with arg := g, out := none, msg := [], seq := firstSeq s.cfg.checkOrder }

/-- Neither a model fault nor a refusal is recorded: the part of the launch premise that SEQ = IDLE does not already bring (spec/70 R232). -/
def State.unmarked (s : State) : Bool := s.faults.isEmpty && !s.refused

/-- MULTIPLY (spec/40 R110). A MULTIPLY that passes the checks of R110 is accepted only where the launch premise of spec/70 R232 holds;
with a mark recorded it has no effect (log 20). -/
def execMultiply (s : State) : Host.Outcome State Fault Refusal :=
  if s.seq ≠ .idle then .next (s.refuse .cmdWhileBusy)
  else
    match s.regs.latch with
    | none => .next (s.raiseFault .unsetRead)
    | some g =>
      if g.bufferA.inRange s.cfg && g.bufferB.inRange s.cfg then
        if s.unmarked then .next (s.startCall g) else .next s
      else .next (s.refuse .range)

/-- ACK (spec/40 R117). -/
def execAck (s : State) : Host.Outcome State Fault Refusal :=
  if s.seq = .done then .next s.endCall else .next (s.refuse .ackNotDone)

/-- The shape exceeds an internal store (spec/40 R114): exact products, no wrap. -/
def State.overCapacity (s : State) : Bool :=
  !(within (s.arg.m * s.arg.k) s.cfg.daCap && within (s.arg.k * s.arg.n) s.cfg.dbCap && within (s.arg.m * s.arg.n) s.cfg.accCap)

/-- The internal stores are taken, every cell unset (spec/40 R114). -/
def State.takeStores (s : State) : State :=
  { s with da := unsetCells (s.arg.m * s.arg.k), db := unsetCells (s.arg.k * s.arg.n), acc := unsetCells (s.arg.m * s.arg.n) }

/-- A result of no bytes: its base is a free value (spec/40 R114; log 23). -/
def State.grantEmpty (s : State) : State :=
  { s with out := some ⟨Config.emptyBase s.draws % s.cfg.addrSpace, 0⟩, draws := s.draws + 1 }

/-- ALLOC (spec/40 R114). -/
def execAlloc (s : State) : Host.Outcome State Fault Refusal :=
  if s.overCapacity then .next (s.raiseFault .capacity)
  else if s.outReq = 0 then .next (s.grantEmpty.takeStores.goNext .alloc)
  else
    match s.request s.outReq with
    | none => .next (s.drawn.raiseFailure codeAllocationFailed)
    | some base => .next ((s.grant ⟨base, s.outReq⟩).takeStores.goNext .alloc)

/-- The internal stores are emptied (spec/40 R115, R116; spec/92 D30). -/
def State.dropStores (s : State) : State := { s with da := [], db := [], acc := [] }

/-- RESPOND_OK (spec/40 R115). -/
def execRespondOk (s : State) : Host.Outcome State Fault Refusal :=
  match s.out with
  | none => .refused .noResultRegion
  | some r => .next ({ s with cBase := r.base, cLen := r.len, code := 0, msg := [] }.dropStores.goNext .respondOk)

/-- Every worker stops and the row pool is emptied (spec/40 R116). -/
def State.stopWorkers (s : State) : State :=
  { s with wk := s.wk.map (fun _ => .idle), rowsPending := [], rowsDone := [] }

/-- RESPOND_FAIL (spec/40 R116). -/
def execRespondFail (s : State) : Host.Outcome State Fault Refusal :=
  .next ({ s.release with cBase := 0, cLen := 0, code := s.failCode }.stopWorkers.dropStores.goNext .respondFail)

end Sys2Proof.Machine
end

