-- ==== Sys2Proof/Machine/Decoder.lean ====
section
/-! DEFINITION. The fp16_buffer_decoder's micro-operations DECODE_A and DECODE_B (spec/41). -/

namespace Sys2Proof.Machine

/-- How many whole elements a buffer of `len` bytes holds (spec/41 R135: a final odd byte is ignored). -/
def elemCount (len : Nat) : Nat := len / 2

/-- Every byte the decoder would read of a buffer at `base` exists (spec/20 R60). -/
def State.readable (s : State) (base cnt : Nat) : Bool := cnt = 0 ∨ base + 2 * cnt ≤ s.cfg.addrSpace

/-- DECODE_A (spec/41 R133). -/
def execDecodeA (s : State) : Host.Outcome State Fault Refusal :=
  let cnt := elemCount s.arg.aLen
  if s.readable s.arg.aBase cnt then
    .next ({ s with da := overwrite (decodeElems s.cfg s.mem s.arg.aBase cnt) s.da }.goNext .decodeA)
  else .fault .noSuchAddress

/-- DECODE_B (spec/41 R134). -/
def execDecodeB (s : State) : Host.Outcome State Fault Refusal :=
  let cnt := elemCount s.arg.bLen
  if s.readable s.arg.bBase cnt then
    .next ({ s with db := overwrite (decodeElems s.cfg s.mem s.arg.bBase cnt) s.db }.goNext .decodeB)
  else .fault .noSuchAddress

end Sys2Proof.Machine
end

