-- ==== Sys2Proof/Machine/Encoder.lean ====
section
/-! DEFINITION. The fp32_to_fp16_encoder's micro-operations SIZE_OUT and ENCODE (spec/44). -/

namespace Sys2Proof.Machine

/-- SIZE_OUT (spec/44 R188). -/
def execSizeOut (s : State) : Host.Outcome State Fault Refusal :=
  match checkedMul s.cfg s.arg.m s.arg.n with
  | none => .next (s.raiseFailure codeOverflow)
  | some t =>
    match checkedMul s.cfg t 2 with
    | none => .next (s.raiseFailure codeOverflow)
    | some u => .next ({ s with outReq := u }.goNext .sizeOut)

/-- ENCODE (spec/44 R195). An unset cell is a model fault with no byte written (log 21). -/
def execEncode (s : State) : Host.Outcome State Fault Refusal :=
  match s.out with
  | none => .refused .noResultRegion
  | some r =>
    let cnt := s.arg.m * s.arg.n
    match readCells s.acc cnt with
    | none => .next (s.raiseFault .unsetRead)
    | some vs =>
      if cnt = 0 ∨ r.base + 2 * cnt ≤ s.cfg.addrSpace then
        .next ({ s with mem := s.mem.writeHalves r.base (vs.map (enc16 s.cfg.nan32to16)) }.goNext .encode)
      else .fault .noSuchAddress

end Sys2Proof.Machine
end

