-- ==== Sys2Proof/Machine/Engine.lean ====
section
/-! DEFINITION. The fp32_blocked_gemm_engine's micro-operations: ACC_CLEAR, DISPATCH and JOIN of the sequencer; ROW_CLAIM, ELEM_INIT, GROUP8,
MAC1, ELEM_STORE and ROW_DONE of the worker whose step it is (spec/42). -/

namespace Sys2Proof.Machine

/-- ACC_CLEAR (spec/42 R146). -/
def execAccClear (s : State) : Host.Outcome State Fault Refusal :=
  .next ({ s with acc := overwrite (List.replicate (s.arg.m * s.arg.n) Single.posZero) s.acc }.goNext .accClear)

/-- DISPATCH (spec/42 R147). -/
def execDispatch (s : State) : Host.Outcome State Fault Refusal :=
  .next ({ s with rowsPending := List.range s.arg.m, rowsDone := [] }.goNext .dispatch)

/-- JOIN (spec/42 R156): the sequencer holds until every row is done (spec/70 R235). -/
def execJoin (s : State) : Host.Outcome State Fault Refusal :=
  if isAllRows s.arg.m s.rowsDone then .next (s.goNext .join) else .next s

/-- The row ROW_CLAIM takes: any pending one (spec/42 R148; log 7). -/
def State.chosenRow (s : State) : Option Nat :=
  match s.rowsPending with
  | [] => none
  | i :: rest => some ((i :: rest).getD (Config.rowChoice s.draws % (rest.length + 1)) i)

/-- ROW_CLAIM (spec/42 R148). An idle worker that finds nothing to claim, or no multiply phase, waits (R165). -/
def execRowClaim (s : State) : Host.Outcome State Fault Refusal :=
  match s.worker with
  | some .idle =>
    if s.seq = .join then
      match s.chosenRow with
      | none => .next s
      | some i => .next ({ s with rowsPending := s.rowsPending.erase i }.setWorker (.row i 0 0 none)).drawn
    else .next s
  | _ => .refused .notEnabled

/-- ELEM_INIT (spec/42 R149). -/
def execElemInit (s : State) : Host.Outcome State Fault Refusal :=
  match s.worker with
  | some (.row i j p v) =>
    if rowUop s.arg j p v = .elemInit then .next (s.setWorker (.row i j 0 (some Single.posZero))) else .refused .notEnabled
  | _ => .refused .notEnabled

/-- GROUP8 (spec/42 R151). -/
def execGroup8 (s : State) : Host.Outcome State Fault Refusal :=
  match s.worker with
  | some (.row i j p (some v)) =>
    if rowUop s.arg j p (some v) = .group8 then
      match products s (arithNan s.draws) i j p 0 8 with
      | none => .next (s.raiseFault .unsetRead)
      | some ps => .next (s.setWorker (.row i j (p + 8) (some (combine s.cfg.sumOrder (arithNan s.draws) v ps)))).drawn
    else .refused .notEnabled
  | _ => .refused .notEnabled

/-- MAC1 (spec/42 R153). The product is operation 0 of the step and the addition operation 8. -/
def execMac1 (s : State) : Host.Outcome State Fault Refusal :=
  match s.worker with
  | some (.row i j p (some v)) =>
    if rowUop s.arg j p (some v) = .mac1 then
      match product s i j p (arithNan s.draws 0) with
      | none => .next (s.raiseFault .unsetRead)
      | some x => .next (s.setWorker (.row i j (p + 1) (some (fadd (arithNan s.draws 8) v x)))).drawn
    else .refused .notEnabled
  | _ => .refused .notEnabled

/-- ELEM_STORE (spec/42 R154). -/
def execElemStore (s : State) : Host.Outcome State Fault Refusal :=
  match s.worker with
  | some (.row i j p (some v)) =>
    if rowUop s.arg j p (some v) = .elemStore then
      .next ({ s with acc := s.acc.set (i * s.arg.n + j) (some v) }.setWorker (.row i (j + 1) 0 none))
    else .refused .notEnabled
  | _ => .refused .notEnabled

/-- ROW_DONE (spec/42 R155). -/
def execRowDone (s : State) : Host.Outcome State Fault Refusal :=
  match s.worker with
  | some (.row i j p none) =>
    if rowUop s.arg j p none = .rowDone then .next ({ s with rowsDone := insertNew i s.rowsDone }.setWorker .idle)
    else .refused .notEnabled
  | _ => .refused .notEnabled

end Sys2Proof.Machine
end

