-- ==== Sys2Proof/Machine/Validator.lean ====
section
/-! DEFINITION. The shape_validator's micro-operations VALIDATE_A and VALIDATE_B (spec/43). -/

namespace Sys2Proof.Machine

/-- The check both micro-operations make: a buffer of `len` bytes against a rows×cols matrix (spec/43 R178, R179). -/
def State.validate (s : State) (here : Seq) (len rows cols : Nat) : State :=
  if satMatches s.cfg len rows cols then s.raiseFault .satMatch
  else if lenOK s.cfg len rows cols then s.goNext here
  else s.raiseFailure codeBadArgument

/-- VALIDATE_A (spec/43 R178). -/
def execValidateA (s : State) : Host.Outcome State Fault Refusal :=
  .next (s.validate .validateA s.arg.aLen s.arg.m s.arg.k)

/-- VALIDATE_B (spec/43 R179). -/
def execValidateB (s : State) : Host.Outcome State Fault Refusal :=
  .next (s.validate .validateB s.arg.bLen s.arg.k s.arg.n)

end Sys2Proof.Machine
end

