-- ==== Sys2Proof/Machine/Dispatch.lean ====
section
/-! DEFINITION. exec: the meaning of each instruction, one arm per row of spec/opcode_table.json. -/

namespace Sys2Proof.Machine

def exec (i : Instr) (s : State) : Host.Outcome State Fault Refusal :=
  match i with
  | .multiply => Sys2Proof.Machine.execMultiply s
  | .ack => Sys2Proof.Machine.execAck s
  | .validateA => Sys2Proof.Machine.execValidateA s
  | .validateB => Sys2Proof.Machine.execValidateB s
  | .sizeOut => Sys2Proof.Machine.execSizeOut s
  | .alloc => Sys2Proof.Machine.execAlloc s
  | .decodeA => Sys2Proof.Machine.execDecodeA s
  | .decodeB => Sys2Proof.Machine.execDecodeB s
  | .accClear => Sys2Proof.Machine.execAccClear s
  | .dispatch => Sys2Proof.Machine.execDispatch s
  | .join => Sys2Proof.Machine.execJoin s
  | .encode => Sys2Proof.Machine.execEncode s
  | .respondOk => Sys2Proof.Machine.execRespondOk s
  | .respondFail => Sys2Proof.Machine.execRespondFail s
  | .rowClaim => Sys2Proof.Machine.execRowClaim s
  | .elemInit => Sys2Proof.Machine.execElemInit s
  | .group8 => Sys2Proof.Machine.execGroup8 s
  | .mac1 => Sys2Proof.Machine.execMac1 s
  | .elemStore => Sys2Proof.Machine.execElemStore s
  | .rowDone => Sys2Proof.Machine.execRowDone s

end Sys2Proof.Machine
end

