-- ==== Sys2Proof/Machine/HostPort.lean ====
section
/-! DEFINITION. The host's interactions other than its commands: register writes and reads, and its own use of memory (spec/10 R40,
spec/70 R243; log 9, 15, 16, 17). -/

namespace Sys2Proof.Machine

/-- What a host read of a register gives (spec/10 R33 to R39). An unset operand register, and C_BASE and C_LEN while not DONE, give a free
value of SIZE_W bits (log 16). -/
def State.readReg (s : State) : HostReg → ReadData
  | .operand r => .num ((s.regs.get r).getD (Config.unspecified s.draws % s.cfg.addrSpace))
  | .cmd => .num 0
  | .status => .num s.status.toNat
  | .cBase => .num (if s.seq = .done then s.cBase else Config.unspecified s.draws % s.cfg.addrSpace)
  | .cLen => .num (if s.seq = .done then s.cLen else Config.unspecified s.draws % s.cfg.addrSpace)
  | .msg => .text (if s.seq = .done ∧ s.code = codeOther then s.msg else [])

/-- The block owns the byte at `a`: it is in the result region, not yet acknowledged (spec/10 R45). -/
def State.ownsByte (s : State) (a : Nat) : Bool :=
  match s.out with
  | none => false
  | some r => r.holds a

/-- The host may not write the byte at `a` now: an input byte of a running call (spec/20 R75 d, duty H1), or a byte the block owns. -/
def State.protects (s : State) (a : Nat) : Bool :=
  (s.busy && (s.arg.bufferA.holds a || s.arg.bufferB.holds a)) || s.ownsByte a

/-- What a host read of the byte at `a` gives: before DONE the bytes of the result region are free (spec/20 R75 c; log 16). -/
def State.peekByte (s : State) (a : Nat) : Byte :=
  if s.ownsByte a && decide (s.seq ≠ .done) then Config.earlyByte s.draws a else s.mem.byteAt a

/-- The host takes its oldest interaction off its list. -/
def State.popHost (s : State) : State := { s with host := s.host.drop 1 }

/-- A host interaction other than a command; the action has been taken off the list already. -/
def hostTouch (s : State) (act : HostAction) : Host.Outcome State Fault Refusal :=
  match act with
  | .wr r v => if v ≤ s.cfg.sizeMax then .next { s with regs := s.regs.set r v } else .refused .tooWide
  | .rd r => .next { s with rdata := s.readReg r }.drawn
  | .poke a b =>
    if s.cfg.addrSpace ≤ a then .fault .noSuchAddress
    else if s.protects a then .refused .hostDuty
    else .next { s with mem := Memory.write a b s.mem }
  | .peek a =>
    if s.cfg.addrSpace ≤ a then .fault .noSuchAddress
    else .next { s with rdata := .byte (s.peekByte a) }.drawn
  | .free r => if r ∈ s.live ∧ s.out ≠ some r then .next { s with live := s.live.erase r } else .refused .hostDuty
  | .wrStatus _ => .next s
  | .waitDone => .next s
  | .cmd _ => .next s

end Sys2Proof.Machine
end

