-- ==== Sys2Proof/Machine/Agents.lean ====
section
/-! DEFINITION. Which agents have a step, which one moves, and what it does (spec/10 R30, spec/40 R112, R113, spec/42 R165, spec/60 R208,
R212, spec/70 R247); and how a code of the opcode table is placed so that the very next step performs it. -/

namespace Sys2Proof.Machine

/-- The micro-operation SEQ names (spec/10 R41): none in IDLE and DONE. -/
def Seq.uop : Seq → Option Instr
  | .validateA => some .validateA
  | .validateB => some .validateB
  | .sizeOut => some .sizeOut
  | .alloc => some .alloc
  | .decodeA => some .decodeA
  | .decodeB => some .decodeB
  | .accClear => some .accClear
  | .dispatch => some .dispatch
  | .join => some .join
  | .encode => some .encode
  | .respondOk => some .respondOk
  | .respondFail => some .respondFail
  | .idle => none
  | .done => none

/-- The sequencer has a step: SEQ names a micro-operation, and JOIN only when every row is done (spec/40 R112, spec/42 R156). -/
def State.sequencerReady (s : State) : Bool :=
  s.seq.uop.isSome && (decide (s.seq ≠ .join) || isAllRows s.arg.m s.rowsDone)

/-- The Other step is enabled (spec/60 R208). -/
def State.otherReady (s : State) : Bool :=
  s.cfg.admitOther && s.seq.uop.isSome && decide (s.seq ≠ .respondFail)

/-- Worker w has a step (spec/42 R165), in the multiply phase only (spec/40 R113, spec/60 R207; log 19). -/
def State.workerReady (s : State) (w : Nat) : Bool := decide (s.seq = .join) && (workerStep s w).isSome

/-- The host can act: it has an interaction left, and a WAIT DONE is over only at DONE (spec/30 R102). -/
def State.hostReady (s : State) : Bool :=
  match s.host with
  | [] => false
  | .waitDone :: _ => decide (s.seq = .done)
  | _ => true

/-- The agents of the block that have a step; none once a model fault is recorded (spec/60 R212). -/
def State.blockAgents (s : State) : List Agent :=
  if s.faults ≠ [] then []
  else
    (if s.sequencerReady then [.sequencer] else []) ++ (if s.otherReady then [.other] else []) ++
      ((List.range s.wk.length).filter s.workerReady).map .worker

/-- The agents that have a step (spec/10 R30). -/
def State.agents (s : State) : List Agent := (if s.hostReady then [.host] else []) ++ s.blockAgents

/-- The agent that moves: any that has a step may (spec/10 R30; log 6). -/
def State.mover (s : State) : Option Agent := s.agents[s.pick % s.agents.length]?

/-- The choice of the agent after this one is a free value (log 6). -/
def State.tick (s : State) : State := { s with pick := Config.schedule s.draws, draws := s.draws + 1 }

/-- The Other step (spec/60 R208). -/
def State.other (s : State) : State := { (s.raiseFailure codeOther) with msg := Config.otherMessage s.draws, draws := s.draws + 1 }

/-- A word written to CMD (spec/10 R35): a command is executed, unless a model fault was recorded before (spec/60 R212); any other word is
refused (spec/30 R88). -/
def writeCmd (w : BitVec 32) (s : State) : Host.Outcome State Fault Refusal :=
  match decode (.cmd32 w) with
  | .error _ => .next (s.refuse .reservedCmd)
  | .ok i =>
    match s.faults with
    | kind :: _ => .fault (.halted kind)
    | [] => exec i s

/-- The host's oldest interaction. -/
def hostStep (s : State) : Host.Outcome State Fault Refusal :=
  match s.host with
  | [] => .next s
  | .cmd w :: _ => writeCmd w s.popHost
  | act :: _ => hostTouch s.popHost act

/-- What an agent's step does. -/
def runAgent (g : Agent) (s : State) : Host.Outcome State Fault Refusal :=
  match g with
  | .host => hostStep s
  | .sequencer =>
    match s.seq.uop with
    | none => .next s
    | some i => exec i s
  | .other => .next s.other
  | .worker w =>
    match workerStep s w with
    | none => .next s
    | some i => exec i { s with cur := w }

/-- No agent has a step (spec/70 R247): a faulted state takes none; in IDLE and DONE the block waits for the host. -/
def State.rest (s : State) : Host.Outcome State Fault Refusal :=
  match s.faults with
  | kind :: _ => .fault (.halted kind)
  | [] => .next s

/-- One step of the machine. -/
def stepOf (s : State) : Host.Outcome State Fault Refusal :=
  match s.mover with
  | none => s.rest
  | some g => runAgent g s.tick

/-! ### Placing a code of the opcode table (log 28) -/

/-- Worker 0 in state `x`, in the multiply phase of a call with m = n = 1 and contraction length `k`, every cell +0.0. -/
def State.placeWorker (s : State) (k : Nat) (x : Worker) (pending : List Nat) : State :=
  { s with
    seq := .join
    arg := { s.arg with m := 1, n := 1, k := k }
    da := List.replicate k (some Single.posZero)
    db := List.replicate k (some Single.posZero)
    acc := [some Single.posZero]
    rowsPending := pending
    rowsDone := []
    wk := x :: s.wk.drop 1 }

/-- The state in which the agent of an instruction has that instruction as its step. -/
def State.placeInstr (s : State) : Instr → State
  | .multiply => s
  | .ack => s
  | .validateA => s.setSeq .validateA
  | .validateB => s.setSeq .validateB
  | .sizeOut => s.setSeq .sizeOut
  | .alloc => s.setSeq .alloc
  | .decodeA => s.setSeq .decodeA
  | .decodeB => s.setSeq .decodeB
  | .accClear => s.setSeq .accClear
  | .dispatch => s.setSeq .dispatch
  | .join => { s with seq := .join, rowsDone := List.range s.arg.m }
  | .encode => { s with seq := .encode, out := some (s.out.getD ⟨0, 0⟩) }
  | .respondOk => { s with seq := .respondOk, out := some (s.out.getD ⟨0, 0⟩) }
  | .respondFail => s.setSeq .respondFail
  | .rowClaim => s.placeWorker 0 .idle [0]
  | .elemInit => s.placeWorker 0 (.row 0 0 0 none) []
  | .group8 => s.placeWorker 8 (.row 0 0 0 (some Single.posZero)) []
  | .mac1 => s.placeWorker 1 (.row 0 0 0 (some Single.posZero)) []
  | .elemStore => s.placeWorker 0 (.row 0 0 0 (some Single.posZero)) []
  | .rowDone => s.placeWorker 0 (.row 0 1 0 none) []

/-- The agent that performs an instruction (spec/30 R90); worker 0 stands for any worker. -/
def agentOf : Instr → Agent
  | .multiply | .ack => .host
  | .rowClaim | .elemInit | .group8 | .mac1 | .elemStore | .rowDone => .worker 0
  | _ => .sequencer

/-- A command word is placed as the host's next interaction; a micro-operation as the next step of its agent. -/
def State.place (s : State) (nbits w : Nat) : State :=
  if nbits = 32 then { s with host := .cmd (BitVec.ofNat 32 w) :: s.host, pick := 0 }
  else
    match decodeTableWord nbits w with
    | none => s
    | some i => { s.placeInstr i with pick := (s.placeInstr i).agents.idxOf (agentOf i) }

end Sys2Proof.Machine
end

