-- ==== Sys2Proof/Machine/Step.lean ====
section
/-! DEFINITION. One step of the machine, and the placing of one instruction where the next step performs it. -/

namespace Sys2Proof.Machine

/-- One step: an agent that has a step takes it (spec/10 R30). -/
def step (s : State) : Host.Outcome State Fault Refusal := stepOf s

/-- `s` with the code of an opcode-table row placed so that the very next step performs it (log 28). -/
def State.withFetchWord (s : State) (nbits w : Nat) : State := s.place nbits w

end Sys2Proof.Machine
end

