-- ==== Sys2Proof/Safety.lean ====
section
/-! DEFINITION. What statements about the block are said in: the launch premise, the end of a call, what a host observes, the invariant a run
keeps, the value DOT(i, j), and how many steps a call has left. -/

namespace Sys2Proof.Machine

/-! ### Launch and end of a call -/

/-- `clean_entry` with no fault and no refusal recorded (spec/70 R232). -/
abbrev State.cleanEntry (s : State) : Prop :=
  s.seq = .idle ∧ s.faults = [] ∧ s.refusals = [] ∧ s.out = none ∧ s.da = [] ∧ s.db = [] ∧ s.acc = [] ∧ s.rowsPending = [] ∧
    s.rowsDone = [] ∧ (∀ x ∈ s.wk, x = .idle) ∧ s.status = 0 ∧ s.msg = []

/-- A final state (spec/70 R246). -/
abbrev State.final (s : State) : Prop := s.seq = .done ∧ s.faults = [] ∧ s.refusals = []

/-- What the host observes of a final state (spec/70 R246). -/
structure Observation where
  code : BitVec 8
  cBase : Nat
  cLen : Nat
  msg : List Byte
  bytes : List Byte
  deriving DecidableEq, Repr

/-- The observation of a state (spec/70 R246). -/
def State.observe (s : State) : Observation :=
  ⟨s.code, s.cBase, s.cLen, s.msg, (List.range s.cLen).map (fun e => s.mem.byteAt (s.cBase + e))⟩

/-! ### How far a call has come -/

/-- ALLOC has given the call its region and stores. -/
def Seq.allocated : Seq → Bool
  | .decodeA | .decodeB | .accClear | .dispatch | .join | .encode | .respondOk => true
  | _ => false

/-- DECODE_A has run. -/
def Seq.decodedA : Seq → Bool
  | .decodeB | .accClear | .dispatch | .join | .encode | .respondOk => true
  | _ => false

/-- DECODE_B has run. -/
def Seq.decodedB : Seq → Bool
  | .accClear | .dispatch | .join | .encode | .respondOk => true
  | _ => false

/-- ACC_CLEAR has run. -/
def Seq.cleared : Seq → Bool
  | .dispatch | .join | .encode | .respondOk => true
  | _ => false

/-- VALIDATE_A has passed (spec/40 R112). -/
def Seq.checkedA (o : CheckOrder) (x : Seq) : Bool :=
  x.allocated || decide (x = .alloc) || decide (x = .validateB) || (decide (x = .sizeOut) && decide (o = .validateFirst))

/-- VALIDATE_B has passed (spec/40 R112). -/
def Seq.checkedB (o : CheckOrder) (x : Seq) : Bool :=
  x.allocated || decide (x = .alloc) || (decide (x = .sizeOut) && decide (o = .validateFirst))

/-- SIZE_OUT has passed (spec/40 R112). -/
def Seq.sized (o : CheckOrder) (x : Seq) : Bool :=
  x.allocated || decide (x = .alloc) || ((decide (x = .validateA) || decide (x = .validateB)) && decide (o = .sizeFirst))

/-! ### The invariant -/

/-- A value of an operand register fits SIZE_W bits; an unset register has none. -/
def fits (c : Config) : Option Nat → Bool
  | none => true
  | some v => v ≤ c.sizeMax

/-- A worker's fields are in range (spec/10 R47); GROUP8 is met at multiples of 8 only (spec/42 R151). -/
def Worker.inRange (g : Arg) : Worker → Bool
  | .idle => true
  | .row i j p none => i < g.m ∧ j ≤ g.n ∧ p = 0
  | .row i j p (some _) => i < g.m ∧ j < g.n ∧ p ≤ g.k ∧ (g.k / 8 * 8 < p ∨ p % 8 = 0)

/-- The row a worker owns. -/
def Worker.owned : Worker → Option Nat
  | .idle => none
  | .row i _ _ _ => some i

/-- OUT, where it is a region, is in range and has no byte of an input buffer (spec/20 R69). -/
def State.regionClear (s : State) : Bool :=
  match s.out with
  | none => true
  | some r => r.inRange s.cfg && r.disjoint s.arg.bufferA && r.disjoint s.arg.bufferB

/-- The region of a call after ALLOC: 2mn bytes, and known to the allocator unless it has none (spec/44 R196). -/
def State.regionOk (s : State) : Bool :=
  match s.out with
  | none => false
  | some r => decide (r.len = s.outReq) && (decide (r.len = 0) || decide (r ∈ s.live))

/-- What C_BASE, C_LEN and OUT say at DONE (spec/10 R38, spec/60 R206). -/
def State.answerOk (s : State) : Bool :=
  if s.code = 0 then decide (s.out = some ⟨s.cBase, s.cLen⟩) && decide (s.cLen = 2 * s.arg.m * s.arg.n)
  else decide (s.out = none) && decide (s.cBase = 0) && decide (s.cLen = 0)

/-- What every run keeps, from reset on, for any implementation. -/
structure Consistent (s : State) : Prop where
  /-- The implementation is one (spec/00 R10, R12). -/
  cfgOk : s.cfg.wf
  /-- Host memory is in its canonical form and within the address space (spec/20 R60). -/
  memOk : Memory.wf s.mem = true ∧ ∀ c ∈ s.mem, c.1 < s.cfg.addrSpace
  /-- Operand registers hold SIZE_W-bit values (spec/10 R33, R34). -/
  regsOk : ∀ r ∈ [s.regs.aBase, s.regs.aLen, s.regs.bBase, s.regs.bLen, s.regs.m, s.regs.n, s.regs.k], fits s.cfg r = true
  /-- So does the latch, and its descriptors are in range (spec/20 R68). -/
  argFits : ∀ v ∈ [s.arg.aBase, s.arg.aLen, s.arg.bBase, s.arg.bLen, s.arg.m, s.arg.n, s.arg.k], v ≤ s.cfg.sizeMax
  argRange : s.arg.bufferA.inRange s.cfg = true ∧ s.arg.bufferB.inRange s.cfg = true
  /-- FAULTS and the refusal reasons are sets (spec/10 R48). -/
  marksOk : s.faults.Nodup ∧ s.refusals.Nodup
  /-- No code over 4 (spec/60 R205); STATUS.CODE is 0 but at DONE (spec/95 EN-8); RESPOND_FAIL has a failure to post. -/
  codesOk : s.code.toNat ≤ 4 ∧ s.failCode.toNat ≤ 4 ∧ (s.seq ≠ .done → s.code = 0) ∧ (s.seq = .respondFail → s.failCode ≠ 0)
  /-- MSG is empty but for an Other failure (spec/10 R39). -/
  msgOk : s.msg = [] ∨ (s.seq = .respondFail ∧ s.failCode = codeOther) ∨ (s.seq = .done ∧ s.code = codeOther)
  /-- Lengths established by the checks (spec/43 R178, R179, spec/44 R188). -/
  lenA : s.seq.checkedA s.cfg.checkOrder = true → s.arg.aLen = 2 * (s.arg.m * s.arg.k)
  lenB : s.seq.checkedB s.cfg.checkOrder = true → s.arg.bLen = 2 * (s.arg.k * s.arg.n)
  lenC : s.seq.sized s.cfg.checkOrder = true → s.outReq = 2 * (s.arg.m * s.arg.n) ∧ s.outReq ≤ s.cfg.sizeMax
  /-- OUT: none before ALLOC, the call's region after it, the answer at DONE. -/
  regionAt : s.seq.allocated = true → s.regionOk = true
  noRegion : s.seq.allocated = false → s.seq ≠ .respondFail → s.seq ≠ .done → s.out = none
  answerAt : s.seq = .done → s.answerOk = true
  regionFree : s.regionClear = true
  /-- The stores have the call's sizes after ALLOC and are empty outside it (spec/10 R43, R44). -/
  storesAt : s.seq.allocated = true →
    s.da.length = s.arg.m * s.arg.k ∧ s.db.length = s.arg.k * s.arg.n ∧ s.acc.length = s.arg.m * s.arg.n
  noStores : s.seq.allocated = false → s.seq ≠ .respondFail → s.da = [] ∧ s.db = [] ∧ s.acc = []
  /-- No cell is unset once its micro-operation has run (spec/10 R43, spec/42 R146). -/
  daSet : s.seq.decodedA = true → s.da.all Option.isSome = true
  dbSet : s.seq.decodedB = true → s.db.all Option.isSome = true
  accSet : s.seq.cleared = true → s.acc.all Option.isSome = true
  /-- Workers: W of them, at work in the multiply phase only (spec/40 R113), each in range. -/
  workersOk : s.wk.length = s.cfg.workers
  idleOutside : s.seq ≠ .join → s.seq ≠ .respondFail → ∀ x ∈ s.wk, x = .idle
  inRangeAt : s.seq = .join → ∀ x ∈ s.wk, x.inRange s.arg = true
  /-- Every row is pending, owned by one worker, or done (spec/42 R147, R148, R155). -/
  poolAt : s.seq = .join → (s.rowsPending ++ s.wk.filterMap Worker.owned ++ s.rowsDone).Perm (List.range s.arg.m)
  poolAfter : s.seq = .encode ∨ s.seq = .respondOk → s.rowsPending = [] ∧ s.rowsDone.Perm (List.range s.arg.m)
  poolOutside : s.seq ≠ .join → s.seq ≠ .respondFail → s.rowsPending = []
  poolBefore : s.seq ≠ .join → s.seq ≠ .encode → s.seq ≠ .respondOk → s.seq ≠ .respondFail → s.seq ≠ .done → s.rowsDone = []

/-! ### DOT(i, j), spec/42 R164 -/

/-- The NaN that stands for any NaN in DOT. -/
def quietNan : Single := 0x7FC00000

/-- The same pattern, or both a NaN (spec/42 R160: NaN bits are free). -/
def sameValue (x y : Single) : Bool := decide (x = y) || (Single.isNan x && Single.isNan y)

/-- The loop of spec/42 R164 from contraction index `p` and running sum `v` on, for products `pr`; `fuel` bounds its rounds. -/
def dotFrom (order : SumOrder) (pr : Nat → Single) (k : Nat) : Nat → Nat → Single → Single
  | 0, _, v => v
  | fuel + 1, p, v =>
    if p + 8 ≤ k then
      dotFrom order pr k fuel (p + 8) (combine order (fun _ => quietNan) v ((List.range 8).map (fun q => pr (p + q))))
    else if p < k then dotFrom order pr k fuel (p + 1) (fadd quietNan v (pr p))
    else v

/-- prod(i, j, p) as DOT reads it. -/
def State.prodAt (s : State) (i j p : Nat) : Single := (product s i j p quietNan).getD Single.posZero

/-- What the loop makes of element (i, j) when it stands at index `p` with running sum `v`. -/
def State.dotRest (s : State) (i j p : Nat) (v : Single) : Single :=
  dotFrom s.cfg.sumOrder (s.prodAt i j) s.arg.k s.arg.k p v

/-- DOT(i, j), spec/42 R164. -/
def State.dot (s : State) (i j : Nat) : Single := s.dotRest i j 0 Single.posZero

/-- Element (i, j) has been stored in this multiply phase. -/
def State.stored (s : State) (i j : Nat) : Bool :=
  decide (i ∈ s.rowsDone) ||
    s.wk.any (fun x =>
      match x with
      | .idle => false
      | .row i' j' _ _ => decide (i' = i) && decide (j < j'))

/-- What a worker's running sum is worth: finishing the loop from it gives DOT. -/
def State.sumOk (s : State) : Worker → Bool
  | .row i j p (some v) => sameValue (s.dotRest i j p v) (s.dot i j)
  | _ => true

/-- Every running sum is on its way to DOT, and every element stored is DOT (spec/42 R164, R170). -/
def EngineCorrect (s : State) : Prop :=
  (s.seq = .join → ∀ x ∈ s.wk, s.sumOk x = true) ∧
  (s.seq = .join ∨ s.seq = .encode ∨ s.seq = .respondOk → ∀ i < s.arg.m, ∀ j < s.arg.n, s.stored i j = true →
    ∃ v, cellAt s.acc (i * s.arg.n + j) = some v ∧ sameValue v (s.dot i j) = true)

/-- No product of the call is a NaN: so it is when every cell of DA and DB is finite, and then no drawn NaN reaches the uninterpreted
`group8` of SUM_ORDER = FREE, which may tell NaNs apart (spec/42 R152, R160). -/
def ProductsNotNan (s : State) : Prop := ∀ i < s.arg.m, ∀ j < s.arg.n, ∀ p < s.arg.k, Single.isNan (s.prodAt i j p) = false

/-- Between ENCODE and RESPOND_OK the region holds C, row-major and little-endian (spec/44 R196). -/
def ResultWritten (s : State) : Prop :=
  s.seq = .respondOk → ∀ r, s.out = some r → ∀ i < s.arg.m, ∀ j < s.arg.n, ∀ v, cellAt s.acc (i * s.arg.n + j) = some v →
    s.mem.read16 (s.arg.addrC r.base i j) = enc16 s.cfg.nan32to16 v

/-! ### Changing one part of the state -/

/-- The same outcome, its next state (if it is one) changed by `f`. -/
def mapNext (f : State → State) : Host.Outcome State Fault Refusal → Host.Outcome State Fault Refusal
  | .next t => .next (f t)
  | .fault r => .fault r
  | .refused r => .refused r

/-- Other values in the operand registers. -/
def State.withRegs (r : OperandRegs) (s : State) : State := { s with regs := r }

/-! ### Steps left -/

/-- Worker steps of one element (spec/42 R167). -/
def elemSteps (k : Nat) : Nat := 2 + k / 8 + k % 8

/-- Worker steps of one row (spec/42 R167). -/
def rowSteps (n k : Nat) : Nat := 2 + n * elemSteps k

/-- Worker steps a worker has left in its row. -/
def Worker.left (g : Arg) : Worker → Nat
  | .idle => 0
  | .row _ j _ none => 1 + (g.n - j) * elemSteps g.k
  | .row _ j p (some _) => 1 + (g.n - (j + 1)) * elemSteps g.k + (1 + (g.k - p) / 8 + (g.k - p) % 8)

/-- Worker steps left in the multiply phase (spec/42 R167). -/
def State.workLeft (s : State) : Nat := s.rowsPending.length * rowSteps s.arg.n s.arg.k + (s.wk.map (Worker.left s.arg)).sum

/-- Steps of the sequencer left in a call, one Other step counted in (spec/70 R237). -/
def Seq.left (o : CheckOrder) : Seq → Nat
  | .validateA =>
    match o with
    | .validateFirst => 12
    | .sizeFirst => 11
  | .validateB =>
    match o with
    | .validateFirst => 11
    | .sizeFirst => 10
  | .sizeOut =>
    match o with
    | .validateFirst => 10
    | .sizeFirst => 12
  | .alloc => 9
  | .decodeA => 8
  | .decodeB => 7
  | .accClear => 6
  | .dispatch => 5
  | .join => 4
  | .encode => 3
  | .respondOk => 2
  | .respondFail => 1
  | .done => 0
  | .idle => 0

/-- Steps of the block left in a call (spec/70 R237). -/
def State.callLeft (s : State) : Nat :=
  s.seq.left s.cfg.checkOrder +
    (if s.seq = .join then s.workLeft else if 4 < s.seq.left s.cfg.checkOrder then s.arg.m * rowSteps s.arg.n s.arg.k else 0)

end Sys2Proof.Machine
end

