-- ==== Sys2Proof/Certificates/Slice0/Obligations.lean ====
section
/-! DEFINITION. The statements about the block, each from a numbered rule of spec/ or from several of them. -/

open Sys2Proof Sys2Proof.Machine

/-! ### Codes -/

/-- spec/30 R87, R90: the code of every row of the two tables, written out, decodes to that row's instruction. -/
def Obligations.TableCodesDecode : Prop :=
  decode (.cmd32 0x00000001) = .ok .multiply ∧ decode (.cmd32 0x00000002) = .ok .ack ∧
  decode (.uop8 0x10) = .ok .validateA ∧ decode (.uop8 0x11) = .ok .validateB ∧ decode (.uop8 0x12) = .ok .sizeOut ∧
  decode (.uop8 0x13) = .ok .alloc ∧ decode (.uop8 0x14) = .ok .decodeA ∧ decode (.uop8 0x15) = .ok .decodeB ∧
  decode (.uop8 0x16) = .ok .accClear ∧ decode (.uop8 0x17) = .ok .dispatch ∧ decode (.uop8 0x18) = .ok .join ∧
  decode (.uop8 0x19) = .ok .encode ∧ decode (.uop8 0x1A) = .ok .respondOk ∧ decode (.uop8 0x1B) = .ok .respondFail ∧
  decode (.uop8 0x20) = .ok .rowClaim ∧ decode (.uop8 0x21) = .ok .elemInit ∧ decode (.uop8 0x22) = .ok .group8 ∧
  decode (.uop8 0x23) = .ok .mac1 ∧ decode (.uop8 0x24) = .ok .elemStore ∧ decode (.uop8 0x25) = .ok .rowDone

/-- spec/30 R87, R90, R91: decoding an instruction's code gives it back, and no micro-operation code but its own gives it. -/
def Obligations.DecodeAndEncodeAgree : Prop :=
  (∀ i, decode (encode i) = .ok i) ∧ ∀ (c : BitVec 8) (i : Instr), decode (.uop8 c) = .ok i → encode i = .uop8 c

/-- spec/30 R88: a command word is MULTIPLY, ACK or reserved, and it is reserved when its OP is 0x00 or 0x03 to 0xFF or its RSVD field is not
zero. -/
def Obligations.EveryOtherCommandWordIsReserved : Prop :=
  ∀ w : BitVec 32,
    (decode (.cmd32 w) = .ok .multiply ↔ w = 1) ∧ (decode (.cmd32 w) = .ok .ack ↔ w = 2) ∧
    ((∃ e, decode (.cmd32 w) = .error e) ↔ (w.toNat % 256 = 0 ∨ 3 ≤ w.toNat % 256) ∨ w.toNat / 256 ≠ 0)

/-! ### The step -/

/-- spec/10 R30, R35, spec/40 R112, spec/42 R165: the step of an agent performs the instruction the agent has before it, on the state with
the next choice of agent drawn (and, for the host, its command taken off its list; for a worker, its number as the worker at work). -/
def Obligations.StepPerformsTheInstruction : Prop :=
  (∀ (s : State) (w : BitVec 32) (rest : List HostAction) (i : Instr), s.mover = some .host → s.host = .cmd w :: rest → s.faults = [] →
    decode (.cmd32 w) = .ok i → step s = exec i { s.tick with host := rest }) ∧
  (∀ (s : State) (i : Instr), s.mover = some .sequencer → s.seq.uop = some i → step s = exec i s.tick) ∧
  (∀ (s : State) (w : Nat) (i : Instr), s.mover = some (.worker w) → workerStep s w = some i → step s = exec i { s.tick with cur := w })

/-- spec/10 R30, spec/40 R112, R113, spec/42 R156, R165, spec/60 R208, R212: exactly these agents have a step. -/
def Obligations.ReadyAgentsAreTheEnabledOnes : Prop :=
  ∀ s : State,
    (.host ∈ s.agents ↔ ∃ act rest, s.host = act :: rest ∧ (act = .waitDone → s.seq = .done)) ∧
    (.sequencer ∈ s.agents ↔ s.faults = [] ∧ s.seq ≠ .idle ∧ s.seq ≠ .done ∧ (s.seq = .join → ∀ i, i ∈ s.rowsDone ↔ i < s.arg.m)) ∧
    (.other ∈ s.agents ↔ s.faults = [] ∧ s.cfg.admitOther = true ∧ s.seq ≠ .idle ∧ s.seq ≠ .done ∧ s.seq ≠ .respondFail) ∧
    (∀ w, .worker w ∈ s.agents ↔ s.faults = [] ∧ s.seq = .join ∧ ∃ x, s.wk[w]? = some x ∧ (x = .idle → s.rowsPending ≠ []))

/-- spec/10 R30: "Any enabled agent may take the next step"; and only an enabled one does. -/
def Obligations.AnyReadyAgentMayMove : Prop :=
  (∀ (s : State) (g : Agent), g ∈ s.agents → ∃ p, { s with pick := p }.mover = some g) ∧
  (∀ (s : State) (g : Agent), s.mover = some g → g ∈ s.agents) ∧ ∀ s : State, s.mover = none → s.agents = []

/-- spec/60 R212, spec/70 R247: once a model fault is recorded the block takes no step and no command is executed; with no agent ready a
faulted state stops, and any other waits. -/
def Obligations.FaultedBlockTakesNoStep : Prop :=
  (∀ (s : State) (g : Agent), s.faults ≠ [] → s.mover = some g → g = .host) ∧
  (∀ (s : State) (k : FaultKind) (ks : List FaultKind) (w : BitVec 32) (rest : List HostAction) (i : Instr), s.faults = k :: ks →
    s.mover = some .host → s.host = .cmd w :: rest → decode (.cmd32 w) = .ok i → step s = .fault (.halted k)) ∧
  (∀ (s : State) (k : FaultKind) (ks : List FaultKind), s.faults = k :: ks → s.mover = none → step s = .fault (.halted k)) ∧
  ∀ s : State, s.faults = [] → s.mover = none → step s = .next s

/-- spec/30 R88, spec/60 R213: a reserved word sets REFUSED and does nothing else. -/
def Obligations.ReservedWordsAreRefused : Prop :=
  ∀ (s : State) (w : BitVec 32) (rest : List HostAction), s.mover = some .host → s.host = .cmd w :: rest → w ≠ 1 → w ≠ 2 →
    step s = .next { s.tick with host := rest, refusals := insertNew .reservedCmd s.refusals }

/-- spec/60 R208: the Other step. -/
def Obligations.OtherStepEndsTheCall : Prop :=
  ∀ s : State, s.mover = some .other →
    step s = .next { s.tick with failCode := 4, msg := Config.otherMessage (s.draws + 1), seq := .respondFail, draws := s.draws + 2 }

/-- spec/10 R33, R34, R36, R37, R40, spec/20 R75 a, spec/30 R102, spec/70 R233, R243: what the host's interactions other than commands and
reads do. It writes an operand register at any time, and the running call's arguments stay; a write to STATUS and a WAIT DONE that is over have
no effect; a byte it places lands at its address and nowhere else, where the host may write (that a byte it may not write stops it is the
model's, log 17). No other step changes an operand register, and no step changes the parameters. -/
def Obligations.OnlyTheHostWritesOperandRegisters : Prop :=
  (∀ (s : State) (r : OperandReg) (v : Nat) (rest : List HostAction), s.mover = some .host → s.host = .wr r v :: rest →
    v < 2 ^ s.cfg.sizeW →
    ∃ regs, step s = .next { s.tick with host := rest, regs := regs } ∧ regs.get r = some v ∧ ∀ q, q ≠ r → regs.get q = s.regs.get q) ∧
  (∀ (s : State) (act : HostAction) (rest : List HostAction), s.mover = some .host → s.host = act :: rest →
    act = .waitDone ∨ (∃ v, act = .wrStatus v) → step s = .next { s.tick with host := rest }) ∧
  (∀ (s : State) (a : Nat) (b : Byte) (rest : List HostAction), s.mover = some .host → s.host = .poke a b :: rest → a < 2 ^ s.cfg.sizeW →
    (s.seq = .idle ∨ s.seq = .done ∨ (s.arg.bufferA.holds a = false ∧ s.arg.bufferB.holds a = false)) →
    (∀ r, s.out = some r → r.holds a = false) →
    ∃ mem, step s = .next { s.tick with host := rest, mem := mem } ∧ Memory.byteAt mem a = b ∧
      ∀ x, x ≠ a → Memory.byteAt mem x = s.mem.byteAt x) ∧
  ∀ s t : State, step s = .next t → t.cfg = s.cfg ∧
    (t.regs = s.regs ∨ ∃ r v rest, s.mover = some .host ∧ s.host = .wr r v :: rest ∧ t.regs = s.regs.set r v)

/-- spec/10 R35, R36, R38, R39, spec/20 R66, R75, spec/70 R243: what the host reads. CMD reads 0; STATUS its word; at DONE C_BASE and C_LEN
their values; MSG the string of an Other failure, and the empty string otherwise; a byte of memory the byte written there last, the bytes of the
result region at DONE included (before DONE those are free values, log 16). -/
def Obligations.HostReadsTheRegisters : Prop :=
  (∀ (s : State) (r : HostReg) (rest : List HostAction), s.mover = some .host → s.host = .rd r :: rest →
    ∃ d, step s = .next { s.tick with host := rest, rdata := d, draws := s.draws + 2 } ∧
      (r = .cmd → d = .num 0) ∧ (r = .status → d = .num s.status.toNat) ∧
      (r = .cBase → s.seq = .done → d = .num s.cBase) ∧ (r = .cLen → s.seq = .done → d = .num s.cLen) ∧
      (r = .msg → s.seq = .done → s.code = 4 → d = .text s.msg) ∧ (r = .msg → s.seq ≠ .done ∨ s.code ≠ 4 → d = .text []) ∧
      ∀ q v, r = .operand q → s.regs.get q = some v → d = .num v) ∧
  ∀ (s : State) (a : Nat) (rest : List HostAction), s.mover = some .host → s.host = .peek a :: rest → a < 2 ^ s.cfg.sizeW →
    ∃ b, step s = .next { s.tick with host := rest, rdata := .byte b, draws := s.draws + 2 } ∧
      (s.seq = .done ∨ (∀ r, s.out = some r → r.holds a = false) → b = s.mem.byteAt a)

/-- spec/10 R36, R41: the fields of STATUS. -/
def Obligations.StatusShowsPhaseAndCode : Prop :=
  ∀ s : State,
    s.status.toNat = (if s.seq = .idle then 0 else if s.seq = .done then 2 else 1) + 256 * s.code.toNat ∧
    s.status.extractLsb' 8 8 = s.code ∧ s.status.extractLsb' 2 6 = 0 ∧ s.status.extractLsb' 16 16 = 0

/-! ### Reset and the state a run keeps -/

/-- spec/10 R52, spec/70 R230, R231: the values the spec gives for reset, for any implementation. -/
def Obligations.ResetLeavesTheTable : Prop :=
  ∀ c : Config,
    let s := State.resetWith c
    (∀ r, s.regs.get r = none) ∧ s.status = 0 ∧ s.msg = [] ∧ s.seq = .idle ∧ s.da = [] ∧ s.db = [] ∧ s.acc = [] ∧ s.out = none ∧
      s.rowsPending = [] ∧ s.rowsDone = [] ∧ s.wk = List.replicate c.workers .idle ∧ s.faults = [] ∧ s.refused = false ∧ s.cfg = c ∧
      (∀ a, s.mem.byteAt a = Config.initialByte a) ∧ (∀ g, g ∈ s.agents → False)

/-- The invariant holds at reset, for any implementation, and every reset is a clean entry (spec/70 R232). That the latch and FAILCODE meet the
invariant at reset rests on the zeros the model chose for what spec/10 R52 leaves unspecified (DESIGN CHOICE, log 4). -/
def Obligations.ResetIsConsistent : Prop :=
  (∀ c : Config, c.wf → Consistent (State.resetWith c) ∧ (State.resetWith c).cleanEntry) ∧ Consistent State.reset

/-- Every step keeps the invariant: the canonical form of memory, the sizes and contents of the stores, the lengths established by the
checks, the result region, the codes, the partition of the rows, the workers' fields. -/
def Obligations.StepKeepsConsistent : Prop :=
  ∀ s t : State, Consistent s → step s = .next t → Consistent t

/-- spec/10 R53, spec/70 R232: a MULTIPLY that makes the block leave IDLE did so from a clean entry, and after ACK in a final state the block is
at a clean entry again, nothing but the end of the call having changed. -/
def Obligations.AckRestoresCleanEntry : Prop :=
  (∀ s t : State, Consistent s → s.seq = .idle → exec .multiply s = .next t → t.seq ≠ .idle → s.cleanEntry) ∧
  ∀ s : State, Consistent s → s.final →
    ∃ t, exec .ack s = .next t ∧ t.cleanEntry ∧ t.regs = s.regs ∧ t.mem = s.mem ∧ t.live = s.live ∧ t.cfg = s.cfg ∧ t.host = s.host

/-- spec/10 R48: no step removes a member of FAULTS or clears REFUSED. -/
def Obligations.MarksAreSticky : Prop :=
  ∀ s t : State, step s = .next t → (∀ k ∈ s.faults, k ∈ t.faults) ∧ (∀ r ∈ s.refusals, r ∈ t.refusals) ∧
    (s.refused = true → t.refused = true)

/-- spec/10 R37: every instruction but MULTIPLY does the same whatever the operand registers hold. -/
def Obligations.RegistersDoNotReachTheRunningCall : Prop :=
  ∀ (i : Instr) (s : State) (r : OperandRegs), i ≠ .multiply → exec i (s.withRegs r) = mapNext (State.withRegs r) (exec i s)

/-- spec/60 R205, R208: without ADMIT_OTHER, code 4 never comes up. -/
def Obligations.OtherNeedsAdmission : Prop :=
  ∀ s t : State, s.cfg.admitOther = false → s.code ≠ 4 ∧ s.failCode ≠ 4 → step s = .next t → t.code ≠ 4 ∧ t.failCode ≠ 4

/-- spec/40 R111, spec/60 R211: each failure is raised by its own micro-operations, and no other instruction goes to RESPOND_FAIL. -/
def Obligations.FailuresComeFromTheirMicroOperations : Prop :=
  ∀ (i : Instr) (s t : State), exec i s = .next t → s.seq ≠ .respondFail → t.seq = .respondFail →
    ((i = .validateA ∨ i = .validateB) ∧ t = { s with failCode := 1, seq := .respondFail }) ∨
    (i = .sizeOut ∧ t = { s with failCode := 2, seq := .respondFail }) ∨
    (i = .alloc ∧ t = { s with failCode := 3, seq := .respondFail, draws := s.draws + 1 })

/-! ### The commands -/

/-- spec/40 R110, spec/70 R232: MULTIPLY in IDLE with no mark recorded, every operand register written and both descriptors in range starts the
call. -/
def Obligations.MultiplyStartsTheCall : Prop :=
  ∀ (s : State) (aBase aLen bBase bLen m n k : Nat), s.seq = .idle → s.faults = [] → s.refusals = [] →
    s.regs = ⟨some aBase, some aLen, some bBase, some bLen, some m, some n, some k⟩ →
    aBase + aLen ≤ 2 ^ s.cfg.sizeW → bBase + bLen ≤ 2 ^ s.cfg.sizeW →
    exec .multiply s = .next { s with
      arg := ⟨aBase, aLen, bBase, bLen, m, n, k⟩, out := none, msg := []
      seq := if s.cfg.checkOrder = .validateFirst then .validateA else .sizeOut }

/-- spec/40 R110, spec/60 R212, R213, spec/70 R232: MULTIPLY is refused while a call runs or waits for ACK, faults on an unwritten register, is
refused when a descriptor is out of range, and is not accepted with a mark recorded (that it then has no effect is the model's, log 20). -/
def Obligations.MultiplyIsTurnedAway : Prop :=
  (∀ s : State, s.seq ≠ .idle → exec .multiply s = .next { s with refusals := insertNew .cmdWhileBusy s.refusals }) ∧
  (∀ (s : State) (r : OperandReg), s.seq = .idle → s.regs.get r = none →
    exec .multiply s = .next { s with faults := insertNew .unsetRead s.faults }) ∧
  (∀ (s : State) (aBase aLen bBase bLen m n k : Nat), s.seq = .idle →
    s.regs = ⟨some aBase, some aLen, some bBase, some bLen, some m, some n, some k⟩ →
    2 ^ s.cfg.sizeW < aBase + aLen ∨ 2 ^ s.cfg.sizeW < bBase + bLen →
    exec .multiply s = .next { s with refusals := insertNew .range s.refusals }) ∧
  ∀ (s : State) (aBase aLen bBase bLen m n k : Nat), s.seq = .idle → s.faults ≠ [] ∨ s.refusals ≠ [] →
    s.regs = ⟨some aBase, some aLen, some bBase, some bLen, some m, some n, some k⟩ →
    aBase + aLen ≤ 2 ^ s.cfg.sizeW → bBase + bLen ≤ 2 ^ s.cfg.sizeW → exec .multiply s = .next s

/-- spec/40 R117, spec/60 R213: ACK at DONE ends the call; anywhere else it is refused. That ACK empties the row pool is the model's
reading of spec/10 R53 (DEDUCED, log 18). -/
def Obligations.AckEndsTheCall : Prop :=
  (∀ s : State, s.seq = .done →
    exec .ack s = .next { s with out := none, code := 0, msg := [], seq := .idle, rowsPending := [], rowsDone := [] }) ∧
  ∀ s : State, s.seq ≠ .done → exec .ack s = .next { s with refusals := insertNew .ackNotDone s.refusals }

/-! ### The shape_validator -/

/-- spec/43 R175, R176: lenOK holds exactly for the true length, and under MAXIMAL for a length of SIZE_MAX when the true one overflows. -/
def Obligations.LengthPredicateIsExact : Prop :=
  ∀ (c : Config) (len rows cols : Nat),
    lenOK c len rows cols = true ↔
      (2 * rows * cols ≤ c.sizeMax ∧ len = 2 * rows * cols) ∨
      (c.sizeMax < 2 * rows * cols ∧ c.satReading = .maximal ∧ len = c.sizeMax)

/-- spec/43 R178, R179, spec/40 R112: a matching length lets the call go on. -/
def Obligations.MatchingLengthsPass : Prop :=
  (∀ s : State, s.arg.aLen = 2 * s.arg.m * s.arg.k → s.arg.aLen ≤ s.cfg.sizeMax →
    exec .validateA s = .next { s with seq := .validateB }) ∧
  ∀ s : State, s.arg.bLen = 2 * s.arg.k * s.arg.n → s.arg.bLen ≤ s.cfg.sizeMax →
    exec .validateB s = .next { s with seq := if s.cfg.checkOrder = .validateFirst then .sizeOut else .alloc }

/-- spec/43 R177 to R179: a length that does not match raises BadArgument, and so does an expected length that overflows, but for the one
case of SAT_MATCH, which is a model fault. -/
def Obligations.OtherLengthsFail : Prop :=
  ∀ s : State,
    (s.arg.aLen ≠ 2 * s.arg.m * s.arg.k ∨ s.cfg.sizeMax < 2 * s.arg.m * s.arg.k →
      exec .validateA s = .next
        (if s.cfg.sizeMax < 2 * s.arg.m * s.arg.k ∧ s.cfg.satReading = .maximal ∧ s.arg.aLen = s.cfg.sizeMax then
          { s with faults := insertNew .satMatch s.faults }
        else { s with failCode := 1, seq := .respondFail })) ∧
    (s.arg.bLen ≠ 2 * s.arg.k * s.arg.n ∨ s.cfg.sizeMax < 2 * s.arg.k * s.arg.n →
      exec .validateB s = .next
        (if s.cfg.sizeMax < 2 * s.arg.k * s.arg.n ∧ s.cfg.satReading = .maximal ∧ s.arg.bLen = s.cfg.sizeMax then
          { s with faults := insertNew .satMatch s.faults }
        else { s with failCode := 1, seq := .respondFail }))

/-! ### SIZE_OUT and ALLOC -/

/-- spec/44 R187, R188: SIZE_OUT's length, or Overflow. -/
def Obligations.SizeOutComputesOrOverflows : Prop :=
  (∀ s : State, 2 * s.arg.m * s.arg.n ≤ s.cfg.sizeMax →
    exec .sizeOut s = .next { s with
      outReq := 2 * s.arg.m * s.arg.n, seq := if s.cfg.checkOrder = .validateFirst then .alloc else .validateA }) ∧
  ∀ s : State, s.cfg.sizeMax < 2 * s.arg.m * s.arg.n → exec .sizeOut s = .next { s with failCode := 2, seq := .respondFail }

/-- spec/40 R114: ALLOC of no bytes always succeeds, at some base, with the stores taken unset. -/
def Obligations.AllocOfNothingSucceeds : Prop :=
  ∀ s : State, s.overCapacity = false → s.outReq = 0 →
    ∃ base < 2 ^ s.cfg.sizeW, exec .alloc s = .next { s with
      out := some ⟨base, 0⟩, draws := s.draws + 1, seq := .decodeA
      da := List.replicate (s.arg.m * s.arg.k) none, db := List.replicate (s.arg.k * s.arg.n) none
      acc := List.replicate (s.arg.m * s.arg.n) none }

/-- spec/40 R114, spec/20 R69: ALLOC of some bytes gets a region that is in range, no larger than MAX_ALLOC_BYTES, and clear of both inputs
and of every live region, with no byte outside it touched; or it raises AllocationFailed and touches nothing. -/
def Obligations.AllocGrantsOrFails : Prop :=
  ∀ s : State, s.overCapacity = false → s.outReq ≠ 0 →
    (∃ base mem, exec .alloc s = .next { s with
        out := some ⟨base, s.outReq⟩, live := ⟨base, s.outReq⟩ :: s.live, draws := s.draws + 1, seq := .decodeA, mem := mem
        da := List.replicate (s.arg.m * s.arg.k) none, db := List.replicate (s.arg.k * s.arg.n) none
        acc := List.replicate (s.arg.m * s.arg.n) none } ∧
      base + s.outReq ≤ 2 ^ s.cfg.sizeW ∧ (∀ b, s.cfg.maxAllocBytes = some b → s.outReq ≤ b) ∧
      (∀ a, base ≤ a → a < base + s.outReq → s.arg.bufferA.holds a = false ∧ s.arg.bufferB.holds a = false ∧
        ∀ r ∈ s.live, r.holds a = false) ∧
      ∀ a, a < base ∨ base + s.outReq ≤ a → Memory.byteAt mem a = s.mem.byteAt a) ∨
    exec .alloc s = .next { s with failCode := 3, seq := .respondFail, draws := s.draws + 1 }

/-- spec/40 R114, spec/60 R210, R212: a shape over a capacity faults before the allocator is asked; a request over MAX_ALLOC_BYTES fails. -/
def Obligations.AllocLimits : Prop :=
  (∀ (s : State) (c : Nat),
    (s.cfg.daCap = some c ∧ c < s.arg.m * s.arg.k) ∨ (s.cfg.dbCap = some c ∧ c < s.arg.k * s.arg.n) ∨
      (s.cfg.accCap = some c ∧ c < s.arg.m * s.arg.n) →
    exec .alloc s = .next { s with faults := insertNew .capacity s.faults }) ∧
  ∀ (s : State) (b : Nat), s.overCapacity = false → s.outReq ≠ 0 → s.cfg.maxAllocBytes = some b → b < s.outReq →
    exec .alloc s = .next { s with failCode := 3, seq := .respondFail, draws := s.draws + 1 }

/-! ### The fp16_buffer_decoder -/

/-- spec/41 R133, R135, R136, spec/20 R63: DECODE_A decodes each whole 2-byte group of buffer a, low byte first, into its cell of DA, leaves
the other cells, and changes nothing else but SEQ. -/
def Obligations.DecodeAFillsItsStore : Prop :=
  ∀ s : State, s.arg.aBase + 2 * (s.arg.aLen / 2) ≤ 2 ^ s.cfg.sizeW →
    ∃ cells, exec .decodeA s = .next { s with da := cells, seq := .decodeB } ∧ cells.length = s.da.length ∧
      ∀ e < s.da.length, cellAt cells e =
        if e < s.arg.aLen / 2 then
          some (dec16 s.cfg.nan16to32 (s.mem.byteAt (s.arg.aBase + 2 * e + 1) ++ s.mem.byteAt (s.arg.aBase + 2 * e)))
        else cellAt s.da e

/-- spec/41 R134, R135, R136, spec/20 R63: DECODE_B does the same for buffer b and DB. -/
def Obligations.DecodeBFillsItsStore : Prop :=
  ∀ s : State, s.arg.bBase + 2 * (s.arg.bLen / 2) ≤ 2 ^ s.cfg.sizeW →
    ∃ cells, exec .decodeB s = .next { s with db := cells, seq := .accClear } ∧ cells.length = s.db.length ∧
      ∀ e < s.db.length, cellAt cells e =
        if e < s.arg.bLen / 2 then
          some (dec16 s.cfg.nan16to32 (s.mem.byteAt (s.arg.bBase + 2 * e + 1) ++ s.mem.byteAt (s.arg.bBase + 2 * e)))
        else cellAt s.db e

/-- spec/41 R132: DEC16 is exact on every pattern that is not a NaN, the sign of zero and of infinity included. -/
def Obligations.DecodingIsExact : Prop :=
  ∀ (mode : NanMap) (h : Half), Half.isNan h = false →
    Single.sign (dec16 mode h) = Half.sign h ∧ Single.isInf (dec16 mode h) = Half.isInf h ∧
    (Half.isFinite h = true → Single.isFinite (dec16 mode h) = true ∧ Single.val (dec16 mode h) = Half.val h * 2 ^ 125)

/-- spec/44 R194: a pattern that is not a NaN comes back unchanged; with the default NaN maps a NaN comes back quieted. -/
def Obligations.DecodeThenEncodeReturnsThePattern : Prop :=
  (∀ (up down : NanMap) (h : Half), Half.isNan h = false → enc16 down (dec16 up h) = h) ∧
  ∀ h : Half, Half.isNan h = true → enc16 .quieting (dec16 .quieting h) = h ||| 0x0200

/-- spec/41 R131, spec/44 R191, spec/42 R160: whichever map is configured, a NaN becomes a NaN of its sign; the default maps keep the payload;
NAN_ARITH is a NaN, whatever the draw. -/
def Obligations.NansStayNans : Prop :=
  (∀ (mode : NanMap) (h : Half), Half.isNan h = true →
    Single.isNan (dec16 mode h) = true ∧ Single.sign (dec16 mode h) = Half.sign h) ∧
  (∀ (mode : NanMap) (x : Single), Single.isNan x = true →
    Half.isNan (enc16 mode x) = true ∧ Half.sign (enc16 mode x) = Single.sign x) ∧
  (∀ h : Half, Half.isNan h = true → (dec16 .quieting h).toNat % 2 ^ 22 = Half.frac h * 2 ^ 13 % 2 ^ 22) ∧
  (∀ x : Single, Single.isNan x = true → (enc16 .quieting x).toNat % 2 ^ 9 = Single.frac x / 2 ^ 13 % 2 ^ 9) ∧
  ∀ d q : Nat, Single.isNan (arithNan d q) = true

/-! ### fp32 arithmetic -/

/-- spec/42 R157: fl32 of the exact non-zero real of sign `s` and magnitude `mag * 2^-sc` is infinity from 2^128 - 2^103 on; under it, the
finite fp32 value nearest to it, and of two equally near the one whose fraction is even. -/
def Obligations.RoundingIsToNearestEven : Prop :=
  ∀ s mag sc : Nat, s < 2 → 0 < mag → 149 ≤ sc →
    ((2 ^ 128 - 2 ^ 103) * 2 ^ sc ≤ mag → fl32 s mag sc = Single.pack s 255 0) ∧
    (mag < (2 ^ 128 - 2 ^ 103) * 2 ^ sc →
      Single.isFinite (fl32 s mag sc) = true ∧ Single.sign (fl32 s mag sc) = s ∧
      ∀ y : Single, Single.isFinite y = true →
        let near := ((Single.mag (fl32 s mag sc) * 2 ^ (sc - 149) : Nat) : Int) - mag
        let other := ((Single.mag y * 2 ^ (sc - 149) : Nat) : Int) - mag
        near.natAbs ≤ other.natAbs ∧
        (near.natAbs = other.natAbs → Single.mag y ≠ Single.mag (fl32 s mag sc) → Single.frac (fl32 s mag sc) % 2 = 0))

/-- spec/42 R158: fp32 addition. -/
def Obligations.AdditionFollowsItsRule : Prop :=
  ∀ nan x y : Single,
    (Single.isNan x = true ∨ Single.isNan y = true → fadd nan x y = nan) ∧
    (Single.isInf x = true → Single.isInf y = true → Single.sign x ≠ Single.sign y → fadd nan x y = nan) ∧
    (Single.isInf x = true → Single.isNan y = false → (Single.isInf y = true → Single.sign x = Single.sign y) → fadd nan x y = x) ∧
    (Single.isInf y = true → Single.isNan x = false → (Single.isInf x = true → Single.sign x = Single.sign y) → fadd nan x y = y) ∧
    (Single.isFinite x = true → Single.isFinite y = true →
      (Single.val x + Single.val y = 0 →
        fadd nan x y = if x = 0x80000000 ∧ y = 0x80000000 then 0x80000000 else 0x00000000) ∧
      (0 < Single.val x + Single.val y → fadd nan x y = fl32 0 (Single.val x + Single.val y).natAbs 149) ∧
      (Single.val x + Single.val y < 0 → fadd nan x y = fl32 1 (Single.val x + Single.val y).natAbs 149))

/-- spec/42 R159: fp32 multiplication; the sign is the exclusive or of the signs. -/
def Obligations.MultiplicationFollowsItsRule : Prop :=
  ∀ nan x y : Single,
    let s := if Single.sign x = Single.sign y then 0 else 1
    (Single.isNan x = true ∨ Single.isNan y = true → fmul nan x y = nan) ∧
    (Single.isInf x = true → Single.isZero y = true → fmul nan x y = nan) ∧
    (Single.isZero x = true → Single.isInf y = true → fmul nan x y = nan) ∧
    (Single.isInf x = true → Single.isNan y = false → Single.isZero y = false → fmul nan x y = Single.pack s 255 0) ∧
    (Single.isInf y = true → Single.isNan x = false → Single.isZero x = false → fmul nan x y = Single.pack s 255 0) ∧
    (Single.isFinite x = true → Single.isFinite y = true →
      fmul nan x y =
        if Single.isZero x = true ∨ Single.isZero y = true then Single.pack s 0 0 else fl32 s (Single.mag x * Single.mag y) 298)

/-- spec/42 R162: the product of two decoded finite fp16 values is their exact product, and it is no fp32 subnormal (R163). -/
def Obligations.ProductsOfHalvesAreExact : Prop :=
  ∀ (mode : NanMap) (nan : Single) (h g : Half), Half.isFinite h = true → Half.isFinite g = true →
    let x := fmul nan (dec16 mode h) (dec16 mode g)
    Single.isFinite x = true ∧ Single.val x = Half.val h * Half.val g * 2 ^ 101 ∧
    Single.sign x = (Half.sign h + Half.sign g) % 2 ∧ (Single.mag x ≠ 0 → Single.exp x ≠ 0)

/-- spec/44 R189, R192: ENC16 of a finite value is infinity from 65520 on; under it, the finite fp16 value nearest to it, and of two equally
near the one whose fraction is even; the sign is kept. -/
def Obligations.NarrowingIsToNearestEven : Prop :=
  ∀ (mode : NanMap) (x : Single), Single.isFinite x = true →
    Half.sign (enc16 mode x) = Single.sign x ∧
    (65520 * 2 ^ 149 ≤ Single.mag x → enc16 mode x = Half.pack (Single.sign x) 31 0) ∧
    (Single.mag x < 65520 * 2 ^ 149 →
      Half.isFinite (enc16 mode x) = true ∧
      ∀ y : Half, Half.isFinite y = true →
        let near := ((Half.mag (enc16 mode x) * 2 ^ 125 : Nat) : Int) - Single.mag x
        let other := ((Half.mag y * 2 ^ 125 : Nat) : Int) - Single.mag x
        near.natAbs ≤ other.natAbs ∧
        (near.natAbs = other.natAbs → Half.mag y ≠ Half.mag (enc16 mode x) → Half.frac (enc16 mode x) % 2 = 0))

/-! ### The engine's sequencer steps -/

/-- spec/42 R146: ACC_CLEAR sets every cell to +0.0. -/
def Obligations.AccClearZeroesEveryCell : Prop :=
  ∀ s : State, s.acc.length = s.arg.m * s.arg.n →
    exec .accClear s = .next { s with acc := List.replicate (s.arg.m * s.arg.n) (some 0x00000000), seq := .dispatch }

/-- spec/42 R147: DISPATCH makes every row pending and none done. -/
def Obligations.DispatchFillsThePool : Prop :=
  ∀ s : State, ∃ pending,
    exec .dispatch s = .next { s with rowsPending := pending, rowsDone := [], seq := .join } ∧
      pending.Nodup ∧ ∀ i, i ∈ pending ↔ i < s.arg.m

/-- spec/42 R156, spec/70 R235: JOIN goes on when ROWS_DONE is {0, ..., m-1}, and holds otherwise. -/
def Obligations.JoinHoldsUntilEveryRowIsDone : Prop :=
  ∀ s : State,
    ((∀ i, i ∈ s.rowsDone ↔ i < s.arg.m) → exec .join s = .next { s with seq := .encode }) ∧
    (¬(∀ i, i ∈ s.rowsDone ↔ i < s.arg.m) → exec .join s = .next s)

/-! ### The workers -/

/-- spec/42 R148, R165: ROW_CLAIM takes some pending row; an idle worker with nothing to claim waits. -/
def Obligations.RowClaimTakesAPendingRow : Prop :=
  (∀ s : State, s.worker = some .idle → s.seq = .join → s.rowsPending ≠ [] →
    ∃ i ∈ s.rowsPending, exec .rowClaim s = .next { s with
      rowsPending := s.rowsPending.erase i, wk := s.wk.set s.cur (.row i 0 0 none), draws := s.draws + 1 }) ∧
  ∀ s : State, s.worker = some .idle → s.seq ≠ .join ∨ s.rowsPending = [] → exec .rowClaim s = .next s

/-- spec/42 R149: ELEM_INIT starts an element at index 0 with +0.0. -/
def Obligations.ElemInitStartsTheSum : Prop :=
  ∀ (s : State) (i j p : Nat), s.worker = some (.row i j p none) → j < s.arg.n →
    exec .elemInit s = .next { s with wk := s.wk.set s.cur (.row i j 0 (some 0x00000000)) }

/-- spec/42 R151, R152: GROUP8 forms the eight products and joins them to the running sum by SUM_ORDER. -/
def Obligations.Group8AccumulatesEightProducts : Prop :=
  ∀ (s : State) (i j p : Nat) (v : Single) (a b : Nat → Single), s.worker = some (.row i j p (some v)) → p + 8 ≤ s.arg.k →
    (∀ q < 8, cellAt s.da (i * s.arg.k + (p + q)) = some (a q) ∧ cellAt s.db ((p + q) * s.arg.n + j) = some (b q)) →
    let nan := arithNan s.draws
    let x := fun q => fmul (nan q) (a q) (b q)
    let sum :=
      match s.cfg.sumOrder with
      | .grouped =>
        fadd (nan 15) v (fadd (nan 14) (fadd (nan 13) (fadd (nan 12) (fadd (nan 11) (fadd (nan 10) (fadd (nan 9)
          (fadd (nan 8) (x 0) (x 1)) (x 2)) (x 3)) (x 4)) (x 5)) (x 6)) (x 7))
      | .linear =>
        fadd (nan 15) (fadd (nan 14) (fadd (nan 13) (fadd (nan 12) (fadd (nan 11) (fadd (nan 10) (fadd (nan 9)
          (fadd (nan 8) v (x 0)) (x 1)) (x 2)) (x 3)) (x 4)) (x 5)) (x 6)) (x 7)
      | .free => Config.group8 v [x 0, x 1, x 2, x 3, x 4, x 5, x 6, x 7]
    exec .group8 s = .next { s with wk := s.wk.set s.cur (.row i j (p + 8) (some sum)), draws := s.draws + 1 }

/-- spec/42 R153: MAC1 adds one product to the running sum. -/
def Obligations.Mac1AccumulatesOneProduct : Prop :=
  ∀ (s : State) (i j p : Nat) (v a b : Single), s.worker = some (.row i j p (some v)) → p < s.arg.k → s.arg.k < p + 8 →
    cellAt s.da (i * s.arg.k + p) = some a → cellAt s.db (p * s.arg.n + j) = some b →
    exec .mac1 s = .next { s with
      wk := s.wk.set s.cur (.row i j (p + 1) (some (fadd (arithNan s.draws 8) v (fmul (arithNan s.draws 0) a b))))
      draws := s.draws + 1 }

/-- spec/42 R154: ELEM_STORE writes the sum to cell i*n + j of ACC, no other cell, and moves on to the next column. -/
def Obligations.ElemStoreWritesItsCell : Prop :=
  ∀ (s : State) (i j p : Nat) (v : Single), s.worker = some (.row i j p (some v)) → s.arg.k ≤ p → i * s.arg.n + j < s.acc.length →
    ∃ cells, exec .elemStore s = .next { s with acc := cells, wk := s.wk.set s.cur (.row i (j + 1) 0 none) } ∧
      cells.length = s.acc.length ∧ cellAt cells (i * s.arg.n + j) = some v ∧
      ∀ e, e ≠ i * s.arg.n + j → cellAt cells e = cellAt s.acc e

/-- spec/42 R155: ROW_DONE adds the row to ROWS_DONE and frees the worker. -/
def Obligations.RowDoneAddsTheRow : Prop :=
  ∀ (s : State) (i j p : Nat), s.worker = some (.row i j p none) → s.arg.n ≤ j →
    ∃ rows, exec .rowDone s = .next { s with rowsDone := rows, wk := s.wk.set s.cur .idle } ∧
      (∀ r, r ∈ rows ↔ r ∈ s.rowsDone ∨ r = i) ∧ (s.rowsDone.Nodup → rows.Nodup)

/-- spec/42 R165, spec/10 R43, R44, spec/44 R195: where an instruction has not its operand form it has no meaning; a read of an unset cell
records UNSET_READ and does nothing else. -/
def Obligations.WhereAnOperandIsMissing : Prop :=
  (∀ (s : State) (i : Instr), i = .elemInit ∨ i = .group8 ∨ i = .mac1 ∨ i = .elemStore ∨ i = .rowDone → workerStep s s.cur ≠ some i →
    exec i s = .refused .notEnabled) ∧
  (∀ s : State, s.worker ≠ some .idle → exec .rowClaim s = .refused .notEnabled) ∧
  (∀ (s : State) (i j p q : Nat) (v : Single), s.worker = some (.row i j p (some v)) → p + 8 ≤ s.arg.k → q < 8 →
    cellAt s.da (i * s.arg.k + (p + q)) = none ∨ cellAt s.db ((p + q) * s.arg.n + j) = none →
    exec .group8 s = .next { s with faults := insertNew .unsetRead s.faults }) ∧
  (∀ (s : State) (i j p : Nat) (v : Single), s.worker = some (.row i j p (some v)) → p < s.arg.k → s.arg.k < p + 8 →
    cellAt s.da (i * s.arg.k + p) = none ∨ cellAt s.db (p * s.arg.n + j) = none →
    exec .mac1 s = .next { s with faults := insertNew .unsetRead s.faults }) ∧
  (∀ (s : State) (r : Region) (e : Nat), s.out = some r → e < s.arg.m * s.arg.n → cellAt s.acc e = none →
    exec .encode s = .next { s with faults := insertNew .unsetRead s.faults }) ∧
  ∀ s : State, s.out = none → exec .encode s = .refused .noResultRegion ∧ exec .respondOk s = .refused .noResultRegion

/-! ### ENCODE and the responses -/

/-- spec/44 R195, R196, spec/20 R63: ENCODE writes every element of C, row-major, low byte first, no other byte, and changes nothing else but
SEQ. -/
def Obligations.EncodeWritesTheResult : Prop :=
  ∀ (s : State) (r : Region), s.out = some r → r.base + 2 * (s.arg.m * s.arg.n) ≤ 2 ^ s.cfg.sizeW →
    (∀ e < s.arg.m * s.arg.n, cellAt s.acc e ≠ none) →
    ∃ mem, exec .encode s = .next { s with mem := mem, seq := .respondOk } ∧
      (∀ i < s.arg.m, ∀ j < s.arg.n, ∀ v, cellAt s.acc (i * s.arg.n + j) = some v →
        let a := r.base + 2 * (i * s.arg.n + j)
        Memory.byteAt mem (a + 1) ++ Memory.byteAt mem a = enc16 s.cfg.nan32to16 v) ∧
      ∀ a, a < r.base ∨ r.base + 2 * (s.arg.m * s.arg.n) ≤ a → Memory.byteAt mem a = s.mem.byteAt a

/-- spec/40 R115: RESPOND_OK posts the region, code OK, an empty message, and empties the stores. -/
def Obligations.RespondOkPostsTheResult : Prop :=
  ∀ (s : State) (r : Region), s.out = some r →
    exec .respondOk s = .next { s with
      cBase := r.base, cLen := r.len, code := 0, msg := [], da := [], db := [], acc := [], seq := .done }

/-- spec/40 R116, spec/60 R206: RESPOND_FAIL posts the code with no result, releases a region, stops the workers and empties pool and stores;
no byte outside a released region changes. -/
def Obligations.RespondFailPostsTheFailure : Prop :=
  (∀ s : State, s.out = none →
    exec .respondFail s = .next { s with
      cBase := 0, cLen := 0, code := s.failCode, wk := s.wk.map (fun _ => .idle), rowsPending := [], rowsDone := []
      da := [], db := [], acc := [], seq := .done }) ∧
  ∀ (s : State) (r : Region), s.out = some r →
    ∃ mem, exec .respondFail s = .next { s with
      out := none, live := s.live.erase r, mem := mem, draws := s.draws + 1
      cBase := 0, cLen := 0, code := s.failCode, wk := s.wk.map (fun _ => .idle), rowsPending := [], rowsDone := []
      da := [], db := [], acc := [], seq := .done } ∧
      ∀ a, a < r.base ∨ r.base + r.len ≤ a → Memory.byteAt mem a = s.mem.byteAt a

/-! ### The whole block -/

/-- spec/20 R61, R62, R69: a step of the block changes no byte outside its own result region, and while a call runs no step, the host's
included, changes a byte of an input buffer; and no instruction but ALLOC (whose fresh region is unspecified, log 10), ENCODE and RESPOND_FAIL
(whose released region is) changes a byte of host memory. -/
def Obligations.MemoryIsConfined : Prop :=
  (∀ s t : State, Consistent s → step s = .next t → s.mover ≠ some .host →
    ∀ a, (∀ r, s.out = some r ∨ t.out = some r → r.holds a = false) → t.mem.byteAt a = s.mem.byteAt a) ∧
  (∀ s t : State, Consistent s → s.busy = true → step s = .next t →
    ∀ a, s.arg.bufferA.holds a = true ∨ s.arg.bufferB.holds a = true → t.mem.byteAt a = s.mem.byteAt a) ∧
  ∀ (i : Instr) (s t : State), i ≠ .alloc → i ≠ .encode → i ≠ .respondFail → exec i s = .next t → ∀ a, t.mem.byteAt a = s.mem.byteAt a

/-- spec/42 R145, R152, R164, R170, spec/10 R43: whatever the workers and the schedule, every running sum is on its way to DOT(i, j) and every
element stored is DOT(i, j), up to the bits of a NaN; for GROUPED and LINEAR on any operands, for FREE on operands whose products are no NaN
(`group8` is any function, so it may tell drawn NaNs apart). DA and DB, once filled, stay until the call's answer; and past JOIN every element
has been stored, so ACC is [DOT(i, j)]. -/
def Obligations.StepKeepsEngineCorrect : Prop :=
  (∀ s t : State, Consistent s → (s.cfg.sumOrder = .free → ProductsNotNan s) → EngineCorrect s → step s = .next t → EngineCorrect t) ∧
  (∀ s t : State, s.seq = .accClear ∨ s.seq = .dispatch ∨ s.seq = .join ∨ s.seq = .encode → step s = .next t →
    t.da = s.da ∧ t.db = s.db ∧ t.arg = s.arg) ∧
  ∀ s : State, Consistent s → EngineCorrect s → s.seq = .encode ∨ s.seq = .respondOk → ∀ i < s.arg.m, ∀ j < s.arg.n,
    ∃ v, cellAt s.acc (i * s.arg.n + j) = some v ∧ sameValue v (s.dot i j) = true

/-- spec/44 R196, R197, spec/20 R75 b, spec/70 R243, R246: what ENCODE wrote stands in the region until the result is posted; RESPOND_OK makes
it the observation of the call: code OK, 2mn bytes that hold C, row-major, low byte first; and the observation stays while the block is DONE. -/
def Obligations.StepKeepsResultWritten : Prop :=
  (∀ s t : State, Consistent s → ResultWritten s → step s = .next t → ResultWritten t) ∧
  (∀ s : State, Consistent s → ResultWritten s → s.seq = .respondOk →
    ∃ t, exec .respondOk s = .next t ∧ t.seq = .done ∧ t.observe.code = 0 ∧ t.observe.cLen = 2 * (s.arg.m * s.arg.n) ∧ t.observe.msg = [] ∧
      t.observe.bytes.length = t.observe.cLen ∧
      ∀ i < s.arg.m, ∀ j < s.arg.n, ∀ v, cellAt s.acc (i * s.arg.n + j) = some v →
        ∃ lo hi, t.observe.bytes[2 * (i * s.arg.n + j)]? = some lo ∧ t.observe.bytes[2 * (i * s.arg.n + j) + 1]? = some hi ∧
          hi ++ lo = enc16 s.cfg.nan32to16 v) ∧
  ∀ s t : State, Consistent s → s.seq = .done → step s = .next t → t.seq = .done → t.observe = s.observe

/-- spec/42 R167: every worker step that meets no unset cell takes one off the steps left, and DISPATCH leaves m * (2 + n * (2 + k div 8 + k mod
8)) of them. -/
def Obligations.WorkerStepsCountDown : Prop :=
  (∀ (s t : State) (i : Instr), workerStep s s.cur = some i → exec i s = .next t → s.faults = [] → t.faults = [] →
    t.workLeft + 1 = s.workLeft) ∧
  ∀ s t : State, (∀ x ∈ s.wk, x = .idle) → exec .dispatch s = .next t →
    t.workLeft = s.arg.m * (2 + s.arg.n * (2 + s.arg.k / 8 + s.arg.k % 8))

/-- spec/70 R247, spec/42 R167: a running call that has met no model fault always has an agent of the block with a step. -/
def Obligations.RunningCallIsNeverStuck : Prop :=
  ∀ s : State, Consistent s → s.busy = true → s.faults = [] → ∃ g ∈ s.agents, g ≠ .host

/-- spec/40 R120, spec/70 R237: every step of the block takes at least one off the steps the call has left, or records a model fault. -/
def Obligations.CallsComeToAnEnd : Prop :=
  ∀ s t : State, Consistent s → s.mover ≠ some .host → s.mover ≠ none → step s = .next t → t.faults ≠ [] ∨ t.callLeft < s.callLeft

/-- spec/60 R211, R212, R224: on a run the block's own steps never stop the machine; a stop is a recorded model fault, or the host breaking a
duty or using an address that does not exist. -/
def Obligations.OnlyFaultsAndTheHostStopTheMachine : Prop :=
  ∀ s : State, Consistent s →
    (∀ f, step s = .fault f → (∃ k ∈ s.faults, f = .halted k) ∨ (f = .noSuchAddress ∧ s.mover = some .host ∧
      ∃ act rest, s.host = act :: rest ∧ act.wf s.cfg = false)) ∧
    ∀ r, step s = .refused r → s.mover = some .host ∧ (r = .hostDuty ∨ r = .tooWide)
end

