-- ==== Sys2Proof/Laws/Ops.lean ====
section
/-! SUPPORT. What the shared operations do, once each: store cells, sets, lengths, products, the allocator, the operand registers. -/

namespace Sys2Proof.Machine

/-! ### Store cells -/

theorem cellAt_eq_some {cells : List Cell} {i : Nat} {v : Single} : cellAt cells i = some v ↔ cells[i]? = some (some v) := by
  unfold cellAt
  cases cells[i]? <;> simp

theorem cellAt_cons_succ (c : Cell) (cs : List Cell) (i : Nat) : cellAt (c :: cs) (i + 1) = cellAt cs i := rfl

theorem cellAt_set_same {cells : List Cell} {i : Nat} (h : i < cells.length) (c : Cell) : cellAt (cells.set i c) i = c := by
  simp [cellAt, h]

theorem cellAt_set_other {cells : List Cell} {i e : Nat} (h : e ≠ i) (c : Cell) : cellAt (cells.set i c) e = cellAt cells e := by
  simp [cellAt, List.getElem?_set_ne (Ne.symm h)]

/-- In a store with no unset cell, every cell there is has a pattern. -/
theorem cellAt_isSome {cells : List Cell} (h : cells.all Option.isSome = true) {i : Nat} (hi : i < cells.length) :
    ∃ v, cellAt cells i = some v := by
  have := List.all_eq_true.mp h cells[i] (List.getElem_mem hi)
  obtain ⟨v, hv⟩ := Option.isSome_iff_exists.mp this
  exact ⟨v, cellAt_eq_some.mpr (by rw [List.getElem?_eq_getElem hi, hv])⟩

@[simp] theorem overwrite_length (vs : List Single) (cs : List Cell) : (overwrite vs cs).length = cs.length := by
  induction cs generalizing vs with
  | nil => cases vs <;> rfl
  | cons c cs ih => cases vs <;> simp [overwrite, ih]

/-- Cell `i` after an overwrite: the value of that place where there is one, else what it was. -/
theorem cellAt_overwrite (vs : List Single) (cs : List Cell) {i : Nat} (hi : i < cs.length) :
    cellAt (overwrite vs cs) i = if h : i < vs.length then some vs[i] else cellAt cs i := by
  induction cs generalizing vs i with
  | nil => simp at hi
  | cons c cs ih =>
    cases vs with
    | nil => simp [overwrite]
    | cons v vs =>
      cases i with
      | zero => simp [overwrite, cellAt]
      | succ i =>
        rw [overwrite, cellAt_cons_succ, ih vs (Nat.lt_of_succ_lt_succ hi)]
        simp [cellAt_cons_succ]

/-- Overwriting the whole of a store leaves no cell unset. -/
theorem overwrite_all_set {vs : List Single} {cs : List Cell} (h : cs.length ≤ vs.length) : (overwrite vs cs).all Option.isSome = true := by
  induction cs generalizing vs with
  | nil => cases vs <;> rfl
  | cons c cs ih =>
    cases vs with
    | nil => simp at h
    | cons v vs => simpa [overwrite] using ih (vs := vs) (by simpa using h)

/-- `readCells` answers with the patterns of the first cells, when it answers. -/
theorem readCells_eq_some {cs : List Cell} {n : Nat} {vs : List Single} (h : readCells cs n = some vs) :
    vs.length = n ∧ ∀ e < n, cellAt cs e = vs[e]? := by
  induction n generalizing cs vs with
  | zero => simp only [readCells, Option.some.injEq] at h; subst h; simp
  | succ n ih =>
    match cs with
    | [] => simp [readCells] at h
    | none :: cs => simp [readCells] at h
    | some v :: cs =>
      simp only [readCells] at h
      split at h
      · rename_i ws hw
        simp only [Option.some.injEq] at h
        subst h
        obtain ⟨hl, hc⟩ := ih hw
        refine ⟨by simp [hl], fun e he => ?_⟩
        cases e with
        | zero => rfl
        | succ e => rw [cellAt_cons_succ, hc e (by omega)]; rfl
      · exact absurd h (by simp)

/-- `readCells` answers exactly when none of the cells is unset. -/
theorem readCells_isSome {cs : List Cell} {n : Nat} (h : ∀ e < n, cellAt cs e ≠ none) : ∃ vs, readCells cs n = some vs := by
  induction n generalizing cs with
  | zero => exact ⟨[], by simp [readCells]⟩
  | succ n ih =>
    match cs with
    | [] => exact absurd rfl (h 0 (by omega))
    | none :: cs => exact absurd rfl (h 0 (by omega))
    | some v :: cs =>
      obtain ⟨vs, hv⟩ := ih (cs := cs) (fun e he => h (e + 1) (by omega))
      exact ⟨v :: vs, by simp [readCells, hv]⟩

/-! ### Sets -/

theorem mem_insertNew {α : Type} [DecidableEq α] {x y : α} {xs : List α} : y ∈ insertNew x xs ↔ y ∈ xs ∨ y = x := by
  unfold insertNew
  split
  · exact ⟨.inl, fun h => h.elim id (fun h => h ▸ ‹_›)⟩
  · simp

theorem nodup_insertNew {α : Type} [DecidableEq α] {x : α} {xs : List α} (h : xs.Nodup) : (insertNew x xs).Nodup := by
  unfold insertNew
  split
  · exact h
  · rename_i hx
    refine List.nodup_append.mpr ⟨h, by simp, fun a ha b hb hab => hx ?_⟩
    rw [List.mem_singleton] at hb
    exact hb ▸ hab ▸ ha

/-- `isAllRows` says that the set is {0, ..., m-1}. -/
theorem isAllRows_iff {m : Nat} {xs : List Nat} : isAllRows m xs = true ↔ ∀ i, i ∈ xs ↔ i < m := by
  unfold isAllRows
  simp only [Bool.and_eq_true, List.all_eq_true, List.mem_range, decide_eq_true_eq]
  exact ⟨fun h i => ⟨h.2 i, h.1 i⟩, fun h => ⟨fun i hi => (h i).mpr hi, fun i hi => (h i).mp hi⟩⟩

/-! ### Lengths -/

/-- The expected length in closed form: the exact product, where it fits. -/
theorem expectedLen_eq (c : Config) (rows cols : Nat) :
    expectedLen c rows cols = if c.sizeMax < 2 * (rows * cols) then none else some (2 * (rows * cols)) := by
  unfold expectedLen satmul
  by_cases h : c.sizeMax < rows * cols
  · simp [h, show c.sizeMax < 2 * (rows * cols) by omega]
  · simp [h, Nat.mul_comm (rows * cols) 2]

/-- The condition of SAT_MATCH in closed form (spec/43 R177). -/
theorem satMatches_iff (c : Config) (len rows cols : Nat) :
    satMatches c len rows cols = true ↔ c.sizeMax < 2 * (rows * cols) ∧ c.satReading = .maximal ∧ len = c.sizeMax := by
  unfold satMatches
  rw [expectedLen_eq]
  by_cases h : c.sizeMax < 2 * (rows * cols) <;> simp [h]

/-- What validating can do (spec/43 R178, R179): a SAT_MATCH fault, the next micro-operation on a true length, or BadArgument. -/
theorem validate_cases (s : State) (here : Seq) (len rows cols : Nat) :
    (s.validate here len rows cols = s.raiseFault .satMatch) ∨
    (s.validate here len rows cols = s.goNext here ∧ len = 2 * (rows * cols) ∧ len ≤ s.cfg.sizeMax) ∨
    (s.validate here len rows cols = s.raiseFailure codeBadArgument) := by
  unfold State.validate
  by_cases hs : satMatches s.cfg len rows cols = true
  · exact .inl (if_pos hs)
  · by_cases hl : lenOK s.cfg len rows cols = true
    · refine .inr (.inl ⟨by rw [if_neg hs, if_pos hl], ?_⟩)
      rw [satMatches_iff] at hs
      unfold lenOK at hl
      rw [expectedLen_eq] at hl
      by_cases ho : s.cfg.sizeMax < 2 * (rows * cols)
      · cases hr : s.cfg.satReading <;> simp [ho, hr] at hl hs
        exact absurd hl hs
      · simp [ho] at hl
        omega
    · exact .inr (.inr (by rw [if_neg hs, if_neg hl]))

/-! ### Products -/

/-- `products` answers with the products of its indices, when it answers. -/
theorem products_eq_some {s : State} {nan : Nat → Single} {i j p q cnt : Nat} {xs : List Single}
    (h : products s nan i j p q cnt = some xs) :
    xs.length = cnt ∧ ∀ e < cnt, product s i j (p + (q + e)) (nan (q + e)) = xs[e]? := by
  induction cnt generalizing q xs with
  | zero => simp only [products, Option.some.injEq] at h; subst h; simp
  | succ cnt ih =>
    simp only [products] at h
    split at h
    · exact absurd h (by simp)
    · rename_i x hx
      split at h
      · exact absurd h (by simp)
      · rename_i ws hw
        simp only [Option.some.injEq] at h
        subst h
        obtain ⟨hl, hc⟩ := ih hw
        refine ⟨by simp [hl], fun e he => ?_⟩
        cases e with
        | zero => simpa using hx
        | succ e =>
          rw [show q + (e + 1) = q + 1 + e by omega, hc e (by omega)]
          rfl

/-- A product is there exactly when both its cells are set. -/
theorem product_eq_some {s : State} {i j p : Nat} {nan x : Single} :
    product s i j p nan = some x ↔
      ∃ a b, cellAt s.da (i * s.arg.k + p) = some a ∧ cellAt s.db (p * s.arg.n + j) = some b ∧ fmul nan a b = x := by
  unfold product
  split
  · rename_i a b ha hb
    simp [ha, hb]
  · rename_i h
    simp only [reduceCtorEq, false_iff, not_exists, not_and]
    exact fun a b ha hb => absurd hb (h a b ha)

/-! ### The allocator -/

/-- A granted request is within MAX_ALLOC_BYTES and one the allocator may answer (spec/40 R114). -/
theorem request_eq_some {s : State} {len base : Nat} (h : s.request len = some base) :
    within len s.cfg.maxAllocBytes = true ∧ s.mayAllocate ⟨base, len⟩ = true := by
  unfold State.request at h
  split at h
  · split at h
    · exact absurd h (by simp)
    · split at h
      · simp only [Option.some.injEq] at h
        subst h
        exact ⟨‹_›, ‹_›⟩
      · exact absurd h (by simp)
  · exact absurd h (by simp)

theorem mayAllocate_iff {s : State} {r : Region} :
    s.mayAllocate r = true ↔ r.inRange s.cfg = true ∧ r.disjoint s.arg.bufferA = true ∧ r.disjoint s.arg.bufferB = true ∧
      ∀ t ∈ s.live, r.disjoint t = true := by
  simp [State.mayAllocate, and_assoc]

/-- Two disjoint regions hold no address in common. -/
theorem holds_of_disjoint {r t : Region} (h : r.disjoint t = true) {a : Nat} (ha : r.holds a = true) : t.holds a = false := by
  simp only [Region.disjoint, Region.holds, decide_eq_true_eq, decide_eq_false_iff_not] at *
  omega

/-! ### Operand registers -/

/-- The latch is taken exactly when all seven registers have been written. -/
theorem latch_eq_some {r : OperandRegs} {g : Arg} :
    r.latch = some g ↔ r = ⟨some g.aBase, some g.aLen, some g.bBase, some g.bLen, some g.m, some g.n, some g.k⟩ := by
  obtain ⟨a, b, c, d, e, f, k⟩ := r
  obtain ⟨ga, gb, gc, gd, ge, gf, gk⟩ := g
  unfold OperandRegs.latch
  split
  · rename_i h1 h2 h3 h4 h5 h6 h7
    simp only at h1 h2 h3 h4 h5 h6 h7
    subst h1 h2 h3 h4 h5 h6 h7
    simp
  · rename_i h
    simp only [reduceCtorEq, false_iff, OperandRegs.mk.injEq, not_and]
    exact fun h1 h2 h3 h4 h5 h6 h7 => h _ _ _ _ _ _ _ h1 h2 h3 h4 h5 h6 h7

theorem get_set_same (r : OperandRegs) (q : OperandReg) (v : Nat) : (r.set q v).get q = some v := by cases q <;> rfl

theorem get_set_other (r : OperandRegs) {q p : OperandReg} (h : p ≠ q) (v : Nat) : (r.set q v).get p = r.get p := by
  cases q <;> cases p <;> first | rfl | exact absurd rfl h

end Sys2Proof.Machine
end

