-- ==== Sys2Proof/Laws/Exec.lean ====
section
/-! SUPPORT. One lemma per meaning that branches: everything it can answer with a next state. -/

namespace Sys2Proof.Machine

variable {s t : State}

/-- No mark is recorded. -/
theorem unmarked_iff : s.unmarked = true ↔ s.faults = [] ∧ s.refusals = [] := by
  simp [State.unmarked, State.refused]

/-- MULTIPLY: refused, faulted, without effect where a mark is recorded, or a call on a latch whose descriptors are in range. -/
theorem execMultiply_next (h : execMultiply s = .next t) :
    (s.seq ≠ .idle ∧ t = s.refuse .cmdWhileBusy) ∨
    (s.seq = .idle ∧ s.regs.latch = none ∧ t = s.raiseFault .unsetRead) ∨
    (s.seq = .idle ∧ t = s.refuse .range) ∨
    (s.seq = .idle ∧ s.unmarked = false ∧ t = s) ∨
    (s.seq = .idle ∧ s.unmarked = true ∧ ∃ g, s.regs.latch = some g ∧ g.bufferA.inRange s.cfg = true ∧
      g.bufferB.inRange s.cfg = true ∧ t = s.startCall g) := by
  unfold execMultiply at h
  by_cases hs : s.seq = .idle
  · rw [if_neg (by simp [hs])] at h
    split at h
    · cases h
      exact .inr (.inl ⟨hs, ‹_›, rfl⟩)
    · rename_i g hg
      by_cases hr : (g.bufferA.inRange s.cfg && g.bufferB.inRange s.cfg) = true
      · rw [if_pos hr] at h
        obtain ⟨h1, h2⟩ := Bool.and_eq_true_iff.mp hr
        by_cases hu : s.unmarked = true
        · rw [if_pos hu] at h
          cases h
          exact .inr (.inr (.inr (.inr ⟨hs, hu, g, hg, h1, h2, rfl⟩)))
        · rw [if_neg hu] at h
          cases h
          exact .inr (.inr (.inr (.inl ⟨hs, by simpa using hu, rfl⟩)))
      · rw [if_neg hr] at h
        cases h
        exact .inr (.inr (.inl ⟨hs, rfl⟩))
  · rw [if_pos hs] at h
    cases h
    exact .inl ⟨hs, rfl⟩

/-- ACK: the end of the call at DONE, refused elsewhere. -/
theorem execAck_next (h : execAck s = .next t) :
    (s.seq = .done ∧ t = s.endCall) ∨ (s.seq ≠ .done ∧ t = s.refuse .ackNotDone) := by
  unfold execAck at h
  split at h
  · cases h
    exact .inl ⟨‹_›, rfl⟩
  · cases h
    exact .inr ⟨‹_›, rfl⟩

/-- SIZE_OUT: the length, where it fits, or Overflow. -/
theorem execSizeOut_eq :
    execSizeOut s =
      if s.cfg.sizeMax < 2 * (s.arg.m * s.arg.n) then .next (s.raiseFailure codeOverflow)
      else .next ({ s with outReq := 2 * (s.arg.m * s.arg.n) }.goNext .sizeOut) := by
  unfold execSizeOut checkedMul
  by_cases h : s.cfg.sizeMax < s.arg.m * s.arg.n
  · simp [h, show s.cfg.sizeMax < 2 * (s.arg.m * s.arg.n) by omega]
  · by_cases h2 : s.cfg.sizeMax < 2 * (s.arg.m * s.arg.n) <;> simp [h, h2, Nat.mul_comm (s.arg.m * s.arg.n) 2]

/-- ALLOC: a CAPACITY fault, a result of no bytes, AllocationFailed, or a region the allocator may give. -/
theorem execAlloc_next (h : execAlloc s = .next t) :
    (s.overCapacity = true ∧ t = s.raiseFault .capacity) ∨
    (s.overCapacity = false ∧ s.outReq = 0 ∧ t = s.grantEmpty.takeStores.goNext .alloc) ∨
    (s.overCapacity = false ∧ s.outReq ≠ 0 ∧ s.request s.outReq = none ∧ t = s.drawn.raiseFailure codeAllocationFailed) ∨
    (s.overCapacity = false ∧ s.outReq ≠ 0 ∧ ∃ base, s.request s.outReq = some base ∧
      t = (s.grant ⟨base, s.outReq⟩).takeStores.goNext .alloc) := by
  unfold execAlloc at h
  by_cases hc : s.overCapacity = true
  · rw [if_pos hc] at h
    cases h
    exact .inl ⟨hc, rfl⟩
  · rw [if_neg hc] at h
    have hc : s.overCapacity = false := by simpa using hc
    by_cases h0 : s.outReq = 0
    · rw [if_pos h0] at h
      cases h
      exact .inr (.inl ⟨hc, h0, rfl⟩)
    · rw [if_neg h0] at h
      split at h <;> cases h
      · exact .inr (.inr (.inl ⟨hc, h0, ‹_›, rfl⟩))
      · exact .inr (.inr (.inr ⟨hc, h0, _, ‹_›, rfl⟩))

/-- DECODE_A: its store overwritten with the decoded buffer. -/
theorem execDecodeA_next (h : execDecodeA s = .next t) :
    s.readable s.arg.aBase (elemCount s.arg.aLen) = true ∧
      t = { s with da := overwrite (decodeElems s.cfg s.mem s.arg.aBase (elemCount s.arg.aLen)) s.da }.goNext .decodeA := by
  unfold execDecodeA at h
  simp only at h
  split at h
  · cases h
    exact ⟨‹_›, rfl⟩
  · cases h

/-- DECODE_B: its store overwritten with the decoded buffer. -/
theorem execDecodeB_next (h : execDecodeB s = .next t) :
    s.readable s.arg.bBase (elemCount s.arg.bLen) = true ∧
      t = { s with db := overwrite (decodeElems s.cfg s.mem s.arg.bBase (elemCount s.arg.bLen)) s.db }.goNext .decodeB := by
  unfold execDecodeB at h
  simp only at h
  split at h
  · cases h
    exact ⟨‹_›, rfl⟩
  · cases h

/-- JOIN: on when every row is done, else a hold. -/
theorem execJoin_next (h : execJoin s = .next t) :
    (isAllRows s.arg.m s.rowsDone = true ∧ t = s.goNext .join) ∨ (isAllRows s.arg.m s.rowsDone = false ∧ t = s) := by
  unfold execJoin at h
  split at h
  · cases h
    exact .inl ⟨‹_›, rfl⟩
  · rename_i hd
    cases h
    exact .inr ⟨by simpa using hd, rfl⟩

/-- ENCODE: an UNSET_READ fault, or the narrowed cells written to the region. -/
theorem execEncode_next (h : execEncode s = .next t) :
    ∃ r, s.out = some r ∧
      ((readCells s.acc (s.arg.m * s.arg.n) = none ∧ t = s.raiseFault .unsetRead) ∨
       ∃ vs, readCells s.acc (s.arg.m * s.arg.n) = some vs ∧
         (s.arg.m * s.arg.n = 0 ∨ r.base + 2 * (s.arg.m * s.arg.n) ≤ s.cfg.addrSpace) ∧
         t = { s with mem := s.mem.writeHalves r.base (vs.map (enc16 s.cfg.nan32to16)) }.goNext .encode) := by
  unfold execEncode at h
  split at h
  · cases h
  · rename_i r hr
    refine ⟨r, hr, ?_⟩
    simp only at h
    split at h
    · cases h
      exact .inl ⟨‹_›, rfl⟩
    · split at h <;> cases h
      exact .inr ⟨_, ‹_›, ‹_›, rfl⟩

/-- RESPOND_OK: the region posted. -/
theorem execRespondOk_next (h : execRespondOk s = .next t) :
    ∃ r, s.out = some r ∧ t = { s with cBase := r.base, cLen := r.len, code := 0, msg := [] }.dropStores.goNext .respondOk := by
  unfold execRespondOk at h
  split at h <;> cases h
  exact ⟨_, ‹_›, rfl⟩

/-- The row ROW_CLAIM takes is pending, and there is none only when no row is. -/
theorem chosenRow_cases (s : State) :
    (s.rowsPending = [] ∧ s.chosenRow = none) ∨ ∃ i ∈ s.rowsPending, s.chosenRow = some i := by
  unfold State.chosenRow
  split
  · exact .inl ⟨‹_›, rfl⟩
  · rename_i i rest hp
    have hlt := Nat.mod_lt (Config.rowChoice s.draws) (Nat.succ_pos rest.length)
    refine .inr ⟨_, ?_, rfl⟩
    rw [List.getD_eq_getElem _ _ (by simpa using hlt)]
    simp only [hp]
    exact List.getElem_mem _

/-- ROW_CLAIM: a wait, or a pending row moved to the idle worker. -/
theorem execRowClaim_next (h : execRowClaim s = .next t) :
    s.worker = some .idle ∧
      ((s.seq ≠ .join ∨ s.rowsPending = []) ∧ t = s ∨
       s.seq = .join ∧ ∃ i ∈ s.rowsPending,
         t = ({ s with rowsPending := s.rowsPending.erase i }.setWorker (.row i 0 0 none)).drawn) := by
  unfold execRowClaim at h
  split at h
  · rename_i hw
    refine ⟨hw, ?_⟩
    split at h
    · rename_i hs
      obtain ⟨hp, hc⟩ | ⟨i, hi, hc⟩ := chosenRow_cases s
      · rw [hc] at h
        cases h
        exact .inl ⟨.inr hp, rfl⟩
      · rw [hc] at h
        cases h
        exact .inr ⟨hs, i, hi, rfl⟩
    · cases h
      exact .inl ⟨.inl ‹_›, rfl⟩
  · cases h

/-- ELEM_INIT: the element started at +0.0. -/
theorem execElemInit_next (h : execElemInit s = .next t) :
    ∃ i j p, s.worker = some (.row i j p none) ∧ j < s.arg.n ∧ t = s.setWorker (.row i j 0 (some Single.posZero)) := by
  unfold execElemInit at h
  split at h
  · rename_i i j p v hw
    split at h
    · rename_i hu
      cases h
      cases v with
      | none =>
        refine ⟨i, j, p, hw, ?_, rfl⟩
        unfold rowUop at hu; simp only at hu; split at hu
        · assumption
        · cases hu
      | some v =>
        unfold rowUop at hu; simp only at hu; split at hu
        · cases hu
        · split at hu <;> cases hu
    · cases h
  · cases h

/-- GROUP8: an UNSET_READ fault, or eight products joined to the running sum. -/
theorem execGroup8_next (h : execGroup8 s = .next t) :
    ∃ i j p v, s.worker = some (.row i j p (some v)) ∧ p + 8 ≤ s.arg.k ∧
      ((products s (arithNan s.draws) i j p 0 8 = none ∧ t = s.raiseFault .unsetRead) ∨
       ∃ ps, products s (arithNan s.draws) i j p 0 8 = some ps ∧
         t = (s.setWorker (.row i j (p + 8) (some (combine s.cfg.sumOrder (arithNan s.draws) v ps)))).drawn) := by
  unfold execGroup8 at h
  split at h
  · rename_i i j p v hw
    split at h
    · rename_i hu
      have hp : p + 8 ≤ s.arg.k := by
        unfold rowUop at hu; simp only at hu; split at hu <;> first | assumption | (split at hu <;> cases hu)
      refine ⟨i, j, p, v, hw, hp, ?_⟩
      split at h <;> cases h
      · exact .inl ⟨‹_›, rfl⟩
      · exact .inr ⟨_, ‹_›, rfl⟩
    · cases h
  · cases h

/-- MAC1: an UNSET_READ fault, or one product added to the running sum. -/
theorem execMac1_next (h : execMac1 s = .next t) :
    ∃ i j p v, s.worker = some (.row i j p (some v)) ∧ p < s.arg.k ∧ s.arg.k < p + 8 ∧
      ((product s i j p (arithNan s.draws 0) = none ∧ t = s.raiseFault .unsetRead) ∨
       ∃ x, product s i j p (arithNan s.draws 0) = some x ∧
         t = (s.setWorker (.row i j (p + 1) (some (fadd (arithNan s.draws 8) v x)))).drawn) := by
  unfold execMac1 at h
  split at h
  · rename_i i j p v hw
    split at h
    · rename_i hu
      have hp : p < s.arg.k ∧ s.arg.k < p + 8 := by
        unfold rowUop at hu; simp only at hu; split at hu
        · cases hu
        · split at hu
          · omega
          · cases hu
      refine ⟨i, j, p, v, hw, hp.1, hp.2, ?_⟩
      split at h <;> cases h
      · exact .inl ⟨‹_›, rfl⟩
      · exact .inr ⟨_, ‹_›, rfl⟩
    · cases h
  · cases h

/-- ELEM_STORE: the sum written to its cell. -/
theorem execElemStore_next (h : execElemStore s = .next t) :
    ∃ i j p v, s.worker = some (.row i j p (some v)) ∧ s.arg.k ≤ p ∧
      t = { s with acc := s.acc.set (i * s.arg.n + j) (some v) }.setWorker (.row i (j + 1) 0 none) := by
  unfold execElemStore at h
  split at h
  · rename_i i j p v hw
    split at h
    · rename_i hu
      have hp : s.arg.k ≤ p := by
        unfold rowUop at hu; simp only at hu; split at hu
        · cases hu
        · split at hu
          · cases hu
          · omega
      cases h
      exact ⟨i, j, p, v, hw, hp, rfl⟩
    · cases h
  · cases h

/-- ROW_DONE: the row added to ROWS_DONE, the worker idle. -/
theorem execRowDone_next (h : execRowDone s = .next t) :
    ∃ i j p, s.worker = some (.row i j p none) ∧ s.arg.n ≤ j ∧
      t = { s with rowsDone := insertNew i s.rowsDone }.setWorker .idle := by
  unfold execRowDone at h
  split at h
  · rename_i i j p hw
    split at h
    · rename_i hu
      have hj : s.arg.n ≤ j := by
        unfold rowUop at hu; simp only at hu; split at hu
        · cases hu
        · omega
      cases h
      exact ⟨i, j, p, hw, hj, rfl⟩
    · cases h
  · cases h

end Sys2Proof.Machine
end

