-- ==== Sys2Proof/Laws/Float.lean ====
section
/-! SUPPORT. The fields of fp16 and fp32 patterns: their bounds, a pattern rebuilt from them, and the fields of a pattern put together; the NaN
patterns; what rounding to even gives. -/

namespace Sys2Proof

theorem Half.sign_lt (h : Half) : Half.sign h < 2 := by have := h.isLt; unfold Half.sign; omega
theorem Half.exp_lt (h : Half) : Half.exp h < 32 := by unfold Half.exp; omega
theorem Half.frac_lt (h : Half) : Half.frac h < 1024 := by unfold Half.frac; omega

theorem Single.sign_lt (x : Single) : Single.sign x < 2 := by have := x.isLt; unfold Single.sign; omega
theorem Single.exp_lt (x : Single) : Single.exp x < 256 := by unfold Single.exp; omega
theorem Single.frac_lt (x : Single) : Single.frac x < 2 ^ 23 := by unfold Single.frac; omega

/-- A pattern is its three fields. -/
theorem Half.pack_fields (h : Half) : Half.pack (Half.sign h) (Half.exp h) (Half.frac h) = h := by
  apply BitVec.eq_of_toNat_eq
  have := h.isLt
  unfold Half.pack Half.sign Half.exp Half.frac
  rw [BitVec.toNat_ofNat]
  omega

/-- A pattern is its three fields. -/
theorem Single.pack_fields (x : Single) : Single.pack (Single.sign x) (Single.exp x) (Single.frac x) = x := by
  apply BitVec.eq_of_toNat_eq
  have := x.isLt
  unfold Single.pack Single.sign Single.exp Single.frac
  rw [BitVec.toNat_ofNat]
  omega

theorem Half.pack_toNat {s e f : Nat} (hs : s < 2) (hb : e * 2 ^ 10 + f < 2 ^ 15) :
    (Half.pack s e f).toNat = s * 2 ^ 15 + e * 2 ^ 10 + f := by
  unfold Half.pack
  rw [BitVec.toNat_ofNat]
  omega

theorem Single.pack_toNat {s e f : Nat} (hs : s < 2) (hb : e * 2 ^ 23 + f < 2 ^ 31) :
    (Single.pack s e f).toNat = s * 2 ^ 31 + e * 2 ^ 23 + f := by
  unfold Single.pack
  rw [BitVec.toNat_ofNat]
  omega

/-- The fields of a pattern put together, a carry out of `f` going into `e`. -/
theorem Half.pack_sign {s e f : Nat} (hs : s < 2) (hb : e * 2 ^ 10 + f < 2 ^ 15) : Half.sign (Half.pack s e f) = s := by
  unfold Half.sign
  rw [Half.pack_toNat hs hb]
  omega

theorem Half.pack_exp {s e f : Nat} (hs : s < 2) (hb : e * 2 ^ 10 + f < 2 ^ 15) : Half.exp (Half.pack s e f) = e + f / 2 ^ 10 := by
  unfold Half.exp
  rw [Half.pack_toNat hs hb]
  omega

theorem Half.pack_frac {s e f : Nat} (hs : s < 2) (hb : e * 2 ^ 10 + f < 2 ^ 15) : Half.frac (Half.pack s e f) = f % 2 ^ 10 := by
  unfold Half.frac
  rw [Half.pack_toNat hs hb]
  omega

theorem Single.pack_sign {s e f : Nat} (hs : s < 2) (hb : e * 2 ^ 23 + f < 2 ^ 31) : Single.sign (Single.pack s e f) = s := by
  unfold Single.sign
  rw [Single.pack_toNat hs hb]
  omega

theorem Single.pack_exp {s e f : Nat} (hs : s < 2) (hb : e * 2 ^ 23 + f < 2 ^ 31) :
    Single.exp (Single.pack s e f) = e + f / 2 ^ 23 := by
  unfold Single.exp
  rw [Single.pack_toNat hs hb]
  omega

theorem Single.pack_frac {s e f : Nat} (hs : s < 2) (hb : e * 2 ^ 23 + f < 2 ^ 31) : Single.frac (Single.pack s e f) = f % 2 ^ 23 := by
  unfold Single.frac
  rw [Single.pack_toNat hs hb]
  omega

/-- `Single.nanOf` is a NaN of the sign asked for. -/
theorem Single.nanOf_isNan {s f : Nat} (hs : s < 2) (hf : f < 2 ^ 23) :
    Single.isNan (Single.nanOf s f) = true ∧ Single.sign (Single.nanOf s f) = s := by
  unfold Single.nanOf Single.isNan
  have hb : 255 * 2 ^ 23 + (if f = 0 then 2 ^ 22 else f) < 2 ^ 31 := by split <;> omega
  rw [Single.pack_sign hs hb, Single.pack_exp hs hb, Single.pack_frac hs hb]
  simp only [decide_eq_true_eq, and_true]
  split <;> omega

/-- `Half.nanOf` is a NaN of the sign asked for. -/
theorem Half.nanOf_isNan {s f : Nat} (hs : s < 2) (hf : f < 2 ^ 10) :
    Half.isNan (Half.nanOf s f) = true ∧ Half.sign (Half.nanOf s f) = s := by
  unfold Half.nanOf Half.isNan
  have hb : 31 * 2 ^ 10 + (if f = 0 then 2 ^ 9 else f) < 2 ^ 15 := by split <;> omega
  rw [Half.pack_sign hs hb, Half.pack_exp hs hb, Half.pack_frac hs hb]
  simp only [decide_eq_true_eq, and_true]
  split <;> omega

/-- Rounding moves by at most half a step, and at exactly half a step gives an even result. -/
theorem roundEven_spec (mag sh : Nat) :
    2 * mag ≤ (2 * roundEven mag sh + 1) * 2 ^ sh ∧ 2 * (roundEven mag sh * 2 ^ sh) ≤ 2 * mag + 2 ^ sh ∧
    (2 * mag = (2 * roundEven mag sh + 1) * 2 ^ sh ∨ 2 * (roundEven mag sh * 2 ^ sh) = 2 * mag + 2 ^ sh → roundEven mag sh % 2 = 0) := by
  have hd := Nat.div_add_mod mag (2 ^ sh)
  have hm := Nat.mod_lt mag (Nat.two_pow_pos sh)
  unfold roundEven
  simp only
  generalize mag % 2 ^ sh = r at *
  generalize mag / 2 ^ sh = q at *
  generalize 2 ^ sh = w at *
  subst hd
  have hq : w * q = q * w := Nat.mul_comm w q
  split
  · have h1 : (2 * (q + 1) + 1) * w = 2 * (q * w) + 3 * w := by ring
    have h2 : (q + 1) * w = q * w + w := by ring
    rw [h1, h2]
    omega
  · have h1 : (2 * q + 1) * w = 2 * (q * w) + w := by ring
    rw [h1]
    omega

/-- Rounding keeps a value that is a whole number of steps. -/
theorem roundEven_exact (q sh : Nat) : roundEven (q * 2 ^ sh) sh = q := by
  unfold roundEven
  have := Nat.two_pow_pos sh
  simp [Nat.mul_div_cancel _ this]
  omega

/-- fl32 gives a finite pattern or an infinity. -/
theorem fl32_not_nan {s : Nat} (hs : s < 2) (mag sc : Nat) : Single.isNan (fl32 s mag sc) = false := by
  unfold fl32 Single.isNan
  simp only [decide_eq_false_iff_not, not_and, not_not]
  split
  · intro _
    exact Single.pack_frac hs (by omega)
  · rename_i hb
    rw [Single.pack_exp hs (by omega)]
    omega

/-- The product of two finite patterns is no NaN, so the NaN supplied plays no part in it (spec/42 R159). -/
theorem fmul_not_nan {x y : Single} (hx : Single.isFinite x = true) (hy : Single.isFinite y = true) (nan : Single) :
    Single.isNan (fmul nan x y) = false := by
  have hs : (Single.sign x + Single.sign y) % 2 < 2 := Nat.mod_lt _ (by omega)
  simp only [Single.isFinite, decide_eq_true_eq] at hx hy
  have hn : Single.isNan x = false ∧ Single.isNan y = false := by simp [Single.isNan, hx, hy]
  have hi : Single.isInf x = false ∧ Single.isInf y = false := by simp [Single.isInf, hx, hy]
  unfold fmul
  rw [hn.1, hn.2, hi.1, hi.2]
  simp only [Bool.or_false, Bool.false_and, Bool.and_false, Bool.false_eq_true, if_false]
  split
  · have he := Single.pack_exp (e := 0) (f := 0) hs (by decide)
    unfold Single.isNan
    rw [he]
    exact decide_eq_false (fun h => absurd h.1 (by decide))
  · exact fl32_not_nan hs _ _

end Sys2Proof
end

