-- ==== Sys2Proof/Laws/Memory.lean ====
section
/-! SUPPORT. Host memory: a read after a write, and that every memory operation keeps the canonical form and the address space. -/

namespace Sys2Proof.Machine

/-! ### Reading after writing -/

theorem Memory.read_write_same (a : Nat) (v : Byte) (m : Memory) : Memory.read a (Memory.write a v m) = some v := by
  induction m with
  | nil => simp [Memory.write, Memory.read]
  | cons c t ih =>
    obtain ⟨x, b⟩ := c
    unfold Memory.write
    split
    · simp [Memory.read]
    · split
      · simp [Memory.read]
      · rename_i h
        simp [Memory.read, ih, Ne.symm h]

theorem Memory.read_write_other {a x : Nat} (h : x ≠ a) (v : Byte) (m : Memory) :
    Memory.read x (Memory.write a v m) = Memory.read x m := by
  induction m with
  | nil => simp [Memory.write, Memory.read, Ne.symm h]
  | cons c t ih =>
    obtain ⟨y, b⟩ := c
    unfold Memory.write
    split
    · simp [Memory.read, Ne.symm h]
    · split
      · rename_i hy
        subst hy
        simp [Memory.read, Ne.symm h]
      · simp only [Memory.read, ih]

@[simp] theorem Memory.byteAt_write_same (a : Nat) (v : Byte) (m : Memory) : (Memory.write a v m).byteAt a = v := by
  simp [Memory.byteAt, Memory.read_write_same]

theorem Memory.byteAt_write_other {a x : Nat} (h : x ≠ a) (v : Byte) (m : Memory) :
    (Memory.write a v m).byteAt x = m.byteAt x := by
  simp [Memory.byteAt, Memory.read_write_other h]

/-- The two bytes of a half, put together again, are the half. -/
theorem half_of_bytes (h : Half) : (h.extractLsb' 8 8 ++ h.extractLsb' 0 8 : BitVec 16) = h := by
  apply BitVec.eq_of_getElem_eq
  intro i hi
  simp only [BitVec.getElem_append]
  split
  · simp [BitVec.getLsbD_eq_getElem hi]
  · have : 8 + (i - 8) = i := by omega
    simp [this, BitVec.getLsbD_eq_getElem hi]

theorem Memory.read16_write16_same (m : Memory) (a : Nat) (h : Half) : (m.write16 a h).read16 a = h := by
  unfold Memory.read16 Memory.write16
  rw [Memory.byteAt_write_same, Memory.byteAt_write_other (by omega), Memory.byteAt_write_same, half_of_bytes]

theorem Memory.byteAt_write16_other {a x : Nat} (h0 : x ≠ a) (h1 : x ≠ a + 1) (m : Memory) (h : Half) :
    (m.write16 a h).byteAt x = m.byteAt x := by
  simp [Memory.write16, Memory.byteAt_write_other h0, Memory.byteAt_write_other h1]

/-- `writeHalves` leaves every byte outside its two bytes a half alone. -/
theorem Memory.byteAt_writeHalves_other {hs : List Half} {a x : Nat} {m : Memory} (h : x < a ∨ a + 2 * hs.length ≤ x) :
    (m.writeHalves a hs).byteAt x = m.byteAt x := by
  induction hs generalizing a m with
  | nil => rfl
  | cons y ys ih =>
    simp only [List.length_cons] at h
    rw [Memory.writeHalves, ih (by omega), Memory.byteAt_write16_other (by omega) (by omega)]

/-- `writeHalves` leaves half `e` of its list at byte `2e`. -/
theorem Memory.read16_writeHalves {hs : List Half} {a e : Nat} {m : Memory} (he : e < hs.length) :
    (m.writeHalves a hs).read16 (a + 2 * e) = hs[e] := by
  induction hs generalizing a e m with
  | nil => simp at he
  | cons y ys ih =>
    cases e with
    | zero =>
      have h : ∀ x, x = a ∨ x = a + 1 → ((m.write16 a y).writeHalves (a + 2) ys).byteAt x = (m.write16 a y).byteAt x :=
        fun x hx => Memory.byteAt_writeHalves_other (by omega)
      have h0 : ((m.write16 a y).writeHalves (a + 2) ys).read16 a = (m.write16 a y).read16 a := by
        simp only [Memory.read16, h _ (.inr rfl), h _ (.inl rfl)]
      exact h0.trans (Memory.read16_write16_same m a y)
    | succ e =>
      have := ih (a := a + 2) (m := m.write16 a y) (Nat.lt_of_succ_lt_succ he)
      rw [Memory.writeHalves, List.getElem_cons_succ, ← this]
      congr 1
      omega

/-- `fill` leaves every byte outside its range alone. -/
theorem Memory.byteAt_fill_other {f : Nat → Byte} {len a x : Nat} {m : Memory} (h : x < a ∨ a + len ≤ x) :
    (Memory.fill f m a len).byteAt x = m.byteAt x := by
  induction len generalizing a m with
  | zero => rfl
  | succ len ih => rw [Memory.fill, ih (by omega), Memory.byteAt_write_other (by omega)]

/-! ### The canonical form -/

theorem Memory.wf_cons_iff (c : Host.Cell) (t : Memory) :
    Memory.wf (c :: t) = true ↔ (∀ d ∈ t.head?, c.1 < d.1) ∧ Memory.wf t = true := by
  cases t with
  | nil => simp [Memory.wf]
  | cons d t => simp [Memory.wf]

/-- The first address after a write is the old first one or the written one. -/
theorem Memory.head_write (a : Nat) (v : Byte) (m : Memory) : ∀ d ∈ (Memory.write a v m).head?, d.1 = a ∨ d ∈ m.head? := by
  cases m with
  | nil => simp [Memory.write]
  | cons c t =>
    obtain ⟨x, b⟩ := c
    unfold Memory.write
    split
    · simp
    · split <;> simp

theorem Memory.wf_write {m : Memory} (h : Memory.wf m = true) (a : Nat) (v : Byte) : Memory.wf (Memory.write a v m) = true := by
  induction m with
  | nil => rfl
  | cons c t ih =>
    obtain ⟨x, b⟩ := c
    obtain ⟨hhead, htail⟩ := (Memory.wf_cons_iff _ _).mp h
    unfold Memory.write
    split
    · rename_i hlt
      exact (Memory.wf_cons_iff _ _).mpr ⟨by simpa using hlt, h⟩
    · split
      · rename_i hx
        exact (Memory.wf_cons_iff _ _).mpr ⟨by simpa [hx] using hhead, htail⟩
      · refine (Memory.wf_cons_iff _ _).mpr ⟨fun d hd => ?_, ih htail⟩
        rcases Memory.head_write a v t d hd with h1 | h1
        · simp only
          omega
        · exact hhead d h1

theorem Memory.wf_write16 {m : Memory} (h : Memory.wf m = true) (a : Nat) (v : Half) : Memory.wf (m.write16 a v) = true :=
  Memory.wf_write (Memory.wf_write h _ _) _ _

theorem Memory.wf_writeHalves {m : Memory} (h : Memory.wf m = true) (a : Nat) (hs : List Half) :
    Memory.wf (m.writeHalves a hs) = true := by
  induction hs generalizing m a with
  | nil => exact h
  | cons y ys ih => exact ih (Memory.wf_write16 h a y) (a + 2)

theorem Memory.wf_fill {m : Memory} (h : Memory.wf m = true) (f : Nat → Byte) (a len : Nat) :
    Memory.wf (Memory.fill f m a len) = true := by
  induction len generalizing m a with
  | zero => exact h
  | succ len ih => exact ih (Memory.wf_write h a _) (a + 1)

/-! ### Where the listed addresses lie -/

theorem Memory.mem_write {a : Nat} {v : Byte} {m : Memory} {c : Host.Cell} (h : c ∈ Memory.write a v m) : c = (a, v) ∨ c ∈ m := by
  induction m with
  | nil => simpa [Memory.write] using h
  | cons d t ih =>
    obtain ⟨x, b⟩ := d
    unfold Memory.write at h
    split at h
    · simpa using h
    · split at h
      · rcases List.mem_cons.mp h with h | h
        · exact .inl h
        · exact .inr (List.mem_cons_of_mem _ h)
      · rcases List.mem_cons.mp h with h | h
        · exact .inr (h ▸ List.mem_cons_self)
        · exact (ih h).imp_right (List.mem_cons_of_mem _)

theorem Memory.bounded_write {m : Memory} {n a : Nat} (h : ∀ c ∈ m, c.1 < n) (ha : a < n) (v : Byte) :
    ∀ c ∈ Memory.write a v m, c.1 < n := by
  intro c hc
  rcases Memory.mem_write hc with rfl | hc
  · exact ha
  · exact h c hc

theorem Memory.bounded_writeHalves {m : Memory} {n a : Nat} {hs : List Half} (h : ∀ c ∈ m, c.1 < n)
    (ha : hs = [] ∨ a + 2 * hs.length ≤ n) : ∀ c ∈ m.writeHalves a hs, c.1 < n := by
  induction hs generalizing m a with
  | nil => exact h
  | cons y ys ih =>
    have ha : a + 2 * (ys.length + 1) ≤ n := by simpa using ha
    exact ih (Memory.bounded_write (Memory.bounded_write h (by omega) _) (by omega) _) (.inr (by omega))

theorem Memory.bounded_fill {m : Memory} {n a len : Nat} (h : ∀ c ∈ m, c.1 < n) (ha : a + len ≤ n) (f : Nat → Byte) :
    ∀ c ∈ Memory.fill f m a len, c.1 < n := by
  induction len generalizing m a with
  | zero => exact h
  | succ len ih => exact ih (Memory.bounded_write h (by omega) _) (by omega)

end Sys2Proof.Machine
end

