-- ==== Sys2Proof/Laws/PerInstr.lean ====
section
/-! SUPPORT. Statements made instruction by instruction, about the instruction as syntax. -/

namespace Sys2Proof.Laws.CodeForm

/-- What a code's form says (spec/30 R86, R89): a command word with nothing in RSVD, or a micro-operation code of UNIT 1 or 2. -/
def fieldsOk : Code → Bool
  | .cmd32 w => decide (cmdRsvd w = 0)
  | .uop8 c => decide (uopUnit c = 1) || decide (uopUnit c = 2)

/-- An instruction is well formed, its code has the form of spec/30 R86 or R89, and decoding the code gives the instruction back. -/
def Statement (i : Instr) : Prop := i.wf = true ∧ fieldsOk (Sys2Proof.encode i) = true ∧ decode (Sys2Proof.encode i) = .ok i

theorem multiply : Statement .multiply := ⟨rfl, by decide, rfl⟩
theorem ack : Statement .ack := ⟨rfl, by decide, rfl⟩
theorem validateA : Statement .validateA := ⟨rfl, by decide, rfl⟩
theorem validateB : Statement .validateB := ⟨rfl, by decide, rfl⟩
theorem sizeOut : Statement .sizeOut := ⟨rfl, by decide, rfl⟩
theorem alloc : Statement .alloc := ⟨rfl, by decide, rfl⟩
theorem decodeA : Statement .decodeA := ⟨rfl, by decide, rfl⟩
theorem decodeB : Statement .decodeB := ⟨rfl, by decide, rfl⟩
theorem accClear : Statement .accClear := ⟨rfl, by decide, rfl⟩
theorem dispatch : Statement .dispatch := ⟨rfl, by decide, rfl⟩
theorem join : Statement .join := ⟨rfl, by decide, rfl⟩
theorem encode : Statement .encode := ⟨rfl, by decide, rfl⟩
theorem respondOk : Statement .respondOk := ⟨rfl, by decide, rfl⟩
theorem respondFail : Statement .respondFail := ⟨rfl, by decide, rfl⟩
theorem rowClaim : Statement .rowClaim := ⟨rfl, by decide, rfl⟩
theorem elemInit : Statement .elemInit := ⟨rfl, by decide, rfl⟩
theorem group8 : Statement .group8 := ⟨rfl, by decide, rfl⟩
theorem mac1 : Statement .mac1 := ⟨rfl, by decide, rfl⟩
theorem elemStore : Statement .elemStore := ⟨rfl, by decide, rfl⟩
theorem rowDone : Statement .rowDone := ⟨rfl, by decide, rfl⟩

end Sys2Proof.Laws.CodeForm
end

