-- ==== Sys2Proof/Laws/Safety.lean ====
section
/-! SUPPORT. Small lemmas about the terms of Safety.lean. -/

namespace Sys2Proof.Machine

/-- Finite cells have no NaN among their products. -/
theorem productsNotNan_of_finite {s : State} (ha : ∀ v, some v ∈ s.da → Single.isFinite v = true)
    (hb : ∀ v, some v ∈ s.db → Single.isFinite v = true) : ProductsNotNan s := by
  intro i _ j _ p _
  unfold State.prodAt
  cases hp : product s i j p quietNan with
  | none => decide +kernel
  | some x =>
    obtain ⟨a, b, h1, h2, rfl⟩ := product_eq_some.mp hp
    exact fmul_not_nan (ha a (List.mem_of_getElem? (cellAt_eq_some.mp h1))) (hb b (List.mem_of_getElem? (cellAt_eq_some.mp h2))) _

end Sys2Proof.Machine
end

