-- ==== Sys2Proof/Laws/State.lean ====
section
/-! SUPPORT. One lemma per field per named update of the state, so that no proof unfolds a record update. -/

namespace Sys2Proof.Machine

variable (s : State)

/-! ### `State.drawn` -/
@[simp] theorem State.drawn_cfg : s.drawn.cfg = s.cfg := rfl
@[simp] theorem State.drawn_regs : s.drawn.regs = s.regs := rfl
@[simp] theorem State.drawn_arg : s.drawn.arg = s.arg := rfl
@[simp] theorem State.drawn_seq : s.drawn.seq = s.seq := rfl
@[simp] theorem State.drawn_code : s.drawn.code = s.code := rfl
@[simp] theorem State.drawn_cBase : s.drawn.cBase = s.cBase := rfl
@[simp] theorem State.drawn_cLen : s.drawn.cLen = s.cLen := rfl
@[simp] theorem State.drawn_msg : s.drawn.msg = s.msg := rfl
@[simp] theorem State.drawn_failCode : s.drawn.failCode = s.failCode := rfl
@[simp] theorem State.drawn_outReq : s.drawn.outReq = s.outReq := rfl
@[simp] theorem State.drawn_out : s.drawn.out = s.out := rfl
@[simp] theorem State.drawn_da : s.drawn.da = s.da := rfl
@[simp] theorem State.drawn_db : s.drawn.db = s.db := rfl
@[simp] theorem State.drawn_acc : s.drawn.acc = s.acc := rfl
@[simp] theorem State.drawn_rowsPending : s.drawn.rowsPending = s.rowsPending := rfl
@[simp] theorem State.drawn_rowsDone : s.drawn.rowsDone = s.rowsDone := rfl
@[simp] theorem State.drawn_wk : s.drawn.wk = s.wk := rfl
@[simp] theorem State.drawn_faults : s.drawn.faults = s.faults := rfl
@[simp] theorem State.drawn_refusals : s.drawn.refusals = s.refusals := rfl
@[simp] theorem State.drawn_mem : s.drawn.mem = s.mem := rfl
@[simp] theorem State.drawn_host : s.drawn.host = s.host := rfl
@[simp] theorem State.drawn_rdata : s.drawn.rdata = s.rdata := rfl
@[simp] theorem State.drawn_live : s.drawn.live = s.live := rfl
@[simp] theorem State.drawn_cur : s.drawn.cur = s.cur := rfl
@[simp] theorem State.drawn_pick : s.drawn.pick = s.pick := rfl
@[simp] theorem State.drawn_draws : s.drawn.draws = s.draws + 1 := rfl

/-! ### `State.setSeq` -/
@[simp] theorem State.setSeq_cfg (x : Seq) : (s.setSeq x).cfg = s.cfg := rfl
@[simp] theorem State.setSeq_regs (x : Seq) : (s.setSeq x).regs = s.regs := rfl
@[simp] theorem State.setSeq_arg (x : Seq) : (s.setSeq x).arg = s.arg := rfl
@[simp] theorem State.setSeq_seq (x : Seq) : (s.setSeq x).seq = x := rfl
@[simp] theorem State.setSeq_code (x : Seq) : (s.setSeq x).code = s.code := rfl
@[simp] theorem State.setSeq_cBase (x : Seq) : (s.setSeq x).cBase = s.cBase := rfl
@[simp] theorem State.setSeq_cLen (x : Seq) : (s.setSeq x).cLen = s.cLen := rfl
@[simp] theorem State.setSeq_msg (x : Seq) : (s.setSeq x).msg = s.msg := rfl
@[simp] theorem State.setSeq_failCode (x : Seq) : (s.setSeq x).failCode = s.failCode := rfl
@[simp] theorem State.setSeq_outReq (x : Seq) : (s.setSeq x).outReq = s.outReq := rfl
@[simp] theorem State.setSeq_out (x : Seq) : (s.setSeq x).out = s.out := rfl
@[simp] theorem State.setSeq_da (x : Seq) : (s.setSeq x).da = s.da := rfl
@[simp] theorem State.setSeq_db (x : Seq) : (s.setSeq x).db = s.db := rfl
@[simp] theorem State.setSeq_acc (x : Seq) : (s.setSeq x).acc = s.acc := rfl
@[simp] theorem State.setSeq_rowsPending (x : Seq) : (s.setSeq x).rowsPending = s.rowsPending := rfl
@[simp] theorem State.setSeq_rowsDone (x : Seq) : (s.setSeq x).rowsDone = s.rowsDone := rfl
@[simp] theorem State.setSeq_wk (x : Seq) : (s.setSeq x).wk = s.wk := rfl
@[simp] theorem State.setSeq_faults (x : Seq) : (s.setSeq x).faults = s.faults := rfl
@[simp] theorem State.setSeq_refusals (x : Seq) : (s.setSeq x).refusals = s.refusals := rfl
@[simp] theorem State.setSeq_mem (x : Seq) : (s.setSeq x).mem = s.mem := rfl
@[simp] theorem State.setSeq_host (x : Seq) : (s.setSeq x).host = s.host := rfl
@[simp] theorem State.setSeq_rdata (x : Seq) : (s.setSeq x).rdata = s.rdata := rfl
@[simp] theorem State.setSeq_live (x : Seq) : (s.setSeq x).live = s.live := rfl
@[simp] theorem State.setSeq_cur (x : Seq) : (s.setSeq x).cur = s.cur := rfl
@[simp] theorem State.setSeq_pick (x : Seq) : (s.setSeq x).pick = s.pick := rfl
@[simp] theorem State.setSeq_draws (x : Seq) : (s.setSeq x).draws = s.draws := rfl

/-! ### `State.goNext` -/
@[simp] theorem State.goNext_cfg (x : Seq) : (s.goNext x).cfg = s.cfg := rfl
@[simp] theorem State.goNext_regs (x : Seq) : (s.goNext x).regs = s.regs := rfl
@[simp] theorem State.goNext_arg (x : Seq) : (s.goNext x).arg = s.arg := rfl
@[simp] theorem State.goNext_seq (x : Seq) : (s.goNext x).seq = nextSeq s.cfg.checkOrder x := rfl
@[simp] theorem State.goNext_code (x : Seq) : (s.goNext x).code = s.code := rfl
@[simp] theorem State.goNext_cBase (x : Seq) : (s.goNext x).cBase = s.cBase := rfl
@[simp] theorem State.goNext_cLen (x : Seq) : (s.goNext x).cLen = s.cLen := rfl
@[simp] theorem State.goNext_msg (x : Seq) : (s.goNext x).msg = s.msg := rfl
@[simp] theorem State.goNext_failCode (x : Seq) : (s.goNext x).failCode = s.failCode := rfl
@[simp] theorem State.goNext_outReq (x : Seq) : (s.goNext x).outReq = s.outReq := rfl
@[simp] theorem State.goNext_out (x : Seq) : (s.goNext x).out = s.out := rfl
@[simp] theorem State.goNext_da (x : Seq) : (s.goNext x).da = s.da := rfl
@[simp] theorem State.goNext_db (x : Seq) : (s.goNext x).db = s.db := rfl
@[simp] theorem State.goNext_acc (x : Seq) : (s.goNext x).acc = s.acc := rfl
@[simp] theorem State.goNext_rowsPending (x : Seq) : (s.goNext x).rowsPending = s.rowsPending := rfl
@[simp] theorem State.goNext_rowsDone (x : Seq) : (s.goNext x).rowsDone = s.rowsDone := rfl
@[simp] theorem State.goNext_wk (x : Seq) : (s.goNext x).wk = s.wk := rfl
@[simp] theorem State.goNext_faults (x : Seq) : (s.goNext x).faults = s.faults := rfl
@[simp] theorem State.goNext_refusals (x : Seq) : (s.goNext x).refusals = s.refusals := rfl
@[simp] theorem State.goNext_mem (x : Seq) : (s.goNext x).mem = s.mem := rfl
@[simp] theorem State.goNext_host (x : Seq) : (s.goNext x).host = s.host := rfl
@[simp] theorem State.goNext_rdata (x : Seq) : (s.goNext x).rdata = s.rdata := rfl
@[simp] theorem State.goNext_live (x : Seq) : (s.goNext x).live = s.live := rfl
@[simp] theorem State.goNext_cur (x : Seq) : (s.goNext x).cur = s.cur := rfl
@[simp] theorem State.goNext_pick (x : Seq) : (s.goNext x).pick = s.pick := rfl
@[simp] theorem State.goNext_draws (x : Seq) : (s.goNext x).draws = s.draws := rfl

/-! ### `State.setWorker` -/
@[simp] theorem State.setWorker_cfg (x : Worker) : (s.setWorker x).cfg = s.cfg := rfl
@[simp] theorem State.setWorker_regs (x : Worker) : (s.setWorker x).regs = s.regs := rfl
@[simp] theorem State.setWorker_arg (x : Worker) : (s.setWorker x).arg = s.arg := rfl
@[simp] theorem State.setWorker_seq (x : Worker) : (s.setWorker x).seq = s.seq := rfl
@[simp] theorem State.setWorker_code (x : Worker) : (s.setWorker x).code = s.code := rfl
@[simp] theorem State.setWorker_cBase (x : Worker) : (s.setWorker x).cBase = s.cBase := rfl
@[simp] theorem State.setWorker_cLen (x : Worker) : (s.setWorker x).cLen = s.cLen := rfl
@[simp] theorem State.setWorker_msg (x : Worker) : (s.setWorker x).msg = s.msg := rfl
@[simp] theorem State.setWorker_failCode (x : Worker) : (s.setWorker x).failCode = s.failCode := rfl
@[simp] theorem State.setWorker_outReq (x : Worker) : (s.setWorker x).outReq = s.outReq := rfl
@[simp] theorem State.setWorker_out (x : Worker) : (s.setWorker x).out = s.out := rfl
@[simp] theorem State.setWorker_da (x : Worker) : (s.setWorker x).da = s.da := rfl
@[simp] theorem State.setWorker_db (x : Worker) : (s.setWorker x).db = s.db := rfl
@[simp] theorem State.setWorker_acc (x : Worker) : (s.setWorker x).acc = s.acc := rfl
@[simp] theorem State.setWorker_rowsPending (x : Worker) : (s.setWorker x).rowsPending = s.rowsPending := rfl
@[simp] theorem State.setWorker_rowsDone (x : Worker) : (s.setWorker x).rowsDone = s.rowsDone := rfl
@[simp] theorem State.setWorker_wk (x : Worker) : (s.setWorker x).wk = s.wk.set s.cur x := rfl
@[simp] theorem State.setWorker_faults (x : Worker) : (s.setWorker x).faults = s.faults := rfl
@[simp] theorem State.setWorker_refusals (x : Worker) : (s.setWorker x).refusals = s.refusals := rfl
@[simp] theorem State.setWorker_mem (x : Worker) : (s.setWorker x).mem = s.mem := rfl
@[simp] theorem State.setWorker_host (x : Worker) : (s.setWorker x).host = s.host := rfl
@[simp] theorem State.setWorker_rdata (x : Worker) : (s.setWorker x).rdata = s.rdata := rfl
@[simp] theorem State.setWorker_live (x : Worker) : (s.setWorker x).live = s.live := rfl
@[simp] theorem State.setWorker_cur (x : Worker) : (s.setWorker x).cur = s.cur := rfl
@[simp] theorem State.setWorker_pick (x : Worker) : (s.setWorker x).pick = s.pick := rfl
@[simp] theorem State.setWorker_draws (x : Worker) : (s.setWorker x).draws = s.draws := rfl

/-! ### `State.raiseFailure` -/
@[simp] theorem State.raiseFailure_cfg (c : BitVec 8) : (s.raiseFailure c).cfg = s.cfg := rfl
@[simp] theorem State.raiseFailure_regs (c : BitVec 8) : (s.raiseFailure c).regs = s.regs := rfl
@[simp] theorem State.raiseFailure_arg (c : BitVec 8) : (s.raiseFailure c).arg = s.arg := rfl
@[simp] theorem State.raiseFailure_seq (c : BitVec 8) : (s.raiseFailure c).seq = .respondFail := rfl
@[simp] theorem State.raiseFailure_code (c : BitVec 8) : (s.raiseFailure c).code = s.code := rfl
@[simp] theorem State.raiseFailure_cBase (c : BitVec 8) : (s.raiseFailure c).cBase = s.cBase := rfl
@[simp] theorem State.raiseFailure_cLen (c : BitVec 8) : (s.raiseFailure c).cLen = s.cLen := rfl
@[simp] theorem State.raiseFailure_msg (c : BitVec 8) : (s.raiseFailure c).msg = s.msg := rfl
@[simp] theorem State.raiseFailure_failCode (c : BitVec 8) : (s.raiseFailure c).failCode = c := rfl
@[simp] theorem State.raiseFailure_outReq (c : BitVec 8) : (s.raiseFailure c).outReq = s.outReq := rfl
@[simp] theorem State.raiseFailure_out (c : BitVec 8) : (s.raiseFailure c).out = s.out := rfl
@[simp] theorem State.raiseFailure_da (c : BitVec 8) : (s.raiseFailure c).da = s.da := rfl
@[simp] theorem State.raiseFailure_db (c : BitVec 8) : (s.raiseFailure c).db = s.db := rfl
@[simp] theorem State.raiseFailure_acc (c : BitVec 8) : (s.raiseFailure c).acc = s.acc := rfl
@[simp] theorem State.raiseFailure_rowsPending (c : BitVec 8) : (s.raiseFailure c).rowsPending = s.rowsPending := rfl
@[simp] theorem State.raiseFailure_rowsDone (c : BitVec 8) : (s.raiseFailure c).rowsDone = s.rowsDone := rfl
@[simp] theorem State.raiseFailure_wk (c : BitVec 8) : (s.raiseFailure c).wk = s.wk := rfl
@[simp] theorem State.raiseFailure_faults (c : BitVec 8) : (s.raiseFailure c).faults = s.faults := rfl
@[simp] theorem State.raiseFailure_refusals (c : BitVec 8) : (s.raiseFailure c).refusals = s.refusals := rfl
@[simp] theorem State.raiseFailure_mem (c : BitVec 8) : (s.raiseFailure c).mem = s.mem := rfl
@[simp] theorem State.raiseFailure_host (c : BitVec 8) : (s.raiseFailure c).host = s.host := rfl
@[simp] theorem State.raiseFailure_rdata (c : BitVec 8) : (s.raiseFailure c).rdata = s.rdata := rfl
@[simp] theorem State.raiseFailure_live (c : BitVec 8) : (s.raiseFailure c).live = s.live := rfl
@[simp] theorem State.raiseFailure_cur (c : BitVec 8) : (s.raiseFailure c).cur = s.cur := rfl
@[simp] theorem State.raiseFailure_pick (c : BitVec 8) : (s.raiseFailure c).pick = s.pick := rfl
@[simp] theorem State.raiseFailure_draws (c : BitVec 8) : (s.raiseFailure c).draws = s.draws := rfl

/-! ### `State.raiseFault` -/
@[simp] theorem State.raiseFault_cfg (k : FaultKind) : (s.raiseFault k).cfg = s.cfg := rfl
@[simp] theorem State.raiseFault_regs (k : FaultKind) : (s.raiseFault k).regs = s.regs := rfl
@[simp] theorem State.raiseFault_arg (k : FaultKind) : (s.raiseFault k).arg = s.arg := rfl
@[simp] theorem State.raiseFault_seq (k : FaultKind) : (s.raiseFault k).seq = s.seq := rfl
@[simp] theorem State.raiseFault_code (k : FaultKind) : (s.raiseFault k).code = s.code := rfl
@[simp] theorem State.raiseFault_cBase (k : FaultKind) : (s.raiseFault k).cBase = s.cBase := rfl
@[simp] theorem State.raiseFault_cLen (k : FaultKind) : (s.raiseFault k).cLen = s.cLen := rfl
@[simp] theorem State.raiseFault_msg (k : FaultKind) : (s.raiseFault k).msg = s.msg := rfl
@[simp] theorem State.raiseFault_failCode (k : FaultKind) : (s.raiseFault k).failCode = s.failCode := rfl
@[simp] theorem State.raiseFault_outReq (k : FaultKind) : (s.raiseFault k).outReq = s.outReq := rfl
@[simp] theorem State.raiseFault_out (k : FaultKind) : (s.raiseFault k).out = s.out := rfl
@[simp] theorem State.raiseFault_da (k : FaultKind) : (s.raiseFault k).da = s.da := rfl
@[simp] theorem State.raiseFault_db (k : FaultKind) : (s.raiseFault k).db = s.db := rfl
@[simp] theorem State.raiseFault_acc (k : FaultKind) : (s.raiseFault k).acc = s.acc := rfl
@[simp] theorem State.raiseFault_rowsPending (k : FaultKind) : (s.raiseFault k).rowsPending = s.rowsPending := rfl
@[simp] theorem State.raiseFault_rowsDone (k : FaultKind) : (s.raiseFault k).rowsDone = s.rowsDone := rfl
@[simp] theorem State.raiseFault_wk (k : FaultKind) : (s.raiseFault k).wk = s.wk := rfl
@[simp] theorem State.raiseFault_faults (k : FaultKind) : (s.raiseFault k).faults = insertNew k s.faults := rfl
@[simp] theorem State.raiseFault_refusals (k : FaultKind) : (s.raiseFault k).refusals = s.refusals := rfl
@[simp] theorem State.raiseFault_mem (k : FaultKind) : (s.raiseFault k).mem = s.mem := rfl
@[simp] theorem State.raiseFault_host (k : FaultKind) : (s.raiseFault k).host = s.host := rfl
@[simp] theorem State.raiseFault_rdata (k : FaultKind) : (s.raiseFault k).rdata = s.rdata := rfl
@[simp] theorem State.raiseFault_live (k : FaultKind) : (s.raiseFault k).live = s.live := rfl
@[simp] theorem State.raiseFault_cur (k : FaultKind) : (s.raiseFault k).cur = s.cur := rfl
@[simp] theorem State.raiseFault_pick (k : FaultKind) : (s.raiseFault k).pick = s.pick := rfl
@[simp] theorem State.raiseFault_draws (k : FaultKind) : (s.raiseFault k).draws = s.draws := rfl

/-! ### `State.refuse` -/
@[simp] theorem State.refuse_cfg (r : RefuseReason) : (s.refuse r).cfg = s.cfg := rfl
@[simp] theorem State.refuse_regs (r : RefuseReason) : (s.refuse r).regs = s.regs := rfl
@[simp] theorem State.refuse_arg (r : RefuseReason) : (s.refuse r).arg = s.arg := rfl
@[simp] theorem State.refuse_seq (r : RefuseReason) : (s.refuse r).seq = s.seq := rfl
@[simp] theorem State.refuse_code (r : RefuseReason) : (s.refuse r).code = s.code := rfl
@[simp] theorem State.refuse_cBase (r : RefuseReason) : (s.refuse r).cBase = s.cBase := rfl
@[simp] theorem State.refuse_cLen (r : RefuseReason) : (s.refuse r).cLen = s.cLen := rfl
@[simp] theorem State.refuse_msg (r : RefuseReason) : (s.refuse r).msg = s.msg := rfl
@[simp] theorem State.refuse_failCode (r : RefuseReason) : (s.refuse r).failCode = s.failCode := rfl
@[simp] theorem State.refuse_outReq (r : RefuseReason) : (s.refuse r).outReq = s.outReq := rfl
@[simp] theorem State.refuse_out (r : RefuseReason) : (s.refuse r).out = s.out := rfl
@[simp] theorem State.refuse_da (r : RefuseReason) : (s.refuse r).da = s.da := rfl
@[simp] theorem State.refuse_db (r : RefuseReason) : (s.refuse r).db = s.db := rfl
@[simp] theorem State.refuse_acc (r : RefuseReason) : (s.refuse r).acc = s.acc := rfl
@[simp] theorem State.refuse_rowsPending (r : RefuseReason) : (s.refuse r).rowsPending = s.rowsPending := rfl
@[simp] theorem State.refuse_rowsDone (r : RefuseReason) : (s.refuse r).rowsDone = s.rowsDone := rfl
@[simp] theorem State.refuse_wk (r : RefuseReason) : (s.refuse r).wk = s.wk := rfl
@[simp] theorem State.refuse_faults (r : RefuseReason) : (s.refuse r).faults = s.faults := rfl
@[simp] theorem State.refuse_refusals (r : RefuseReason) : (s.refuse r).refusals = insertNew r s.refusals := rfl
@[simp] theorem State.refuse_mem (r : RefuseReason) : (s.refuse r).mem = s.mem := rfl
@[simp] theorem State.refuse_host (r : RefuseReason) : (s.refuse r).host = s.host := rfl
@[simp] theorem State.refuse_rdata (r : RefuseReason) : (s.refuse r).rdata = s.rdata := rfl
@[simp] theorem State.refuse_live (r : RefuseReason) : (s.refuse r).live = s.live := rfl
@[simp] theorem State.refuse_cur (r : RefuseReason) : (s.refuse r).cur = s.cur := rfl
@[simp] theorem State.refuse_pick (r : RefuseReason) : (s.refuse r).pick = s.pick := rfl
@[simp] theorem State.refuse_draws (r : RefuseReason) : (s.refuse r).draws = s.draws := rfl

/-! ### `State.tick` -/
@[simp] theorem State.tick_cfg : s.tick.cfg = s.cfg := rfl
@[simp] theorem State.tick_regs : s.tick.regs = s.regs := rfl
@[simp] theorem State.tick_arg : s.tick.arg = s.arg := rfl
@[simp] theorem State.tick_seq : s.tick.seq = s.seq := rfl
@[simp] theorem State.tick_code : s.tick.code = s.code := rfl
@[simp] theorem State.tick_cBase : s.tick.cBase = s.cBase := rfl
@[simp] theorem State.tick_cLen : s.tick.cLen = s.cLen := rfl
@[simp] theorem State.tick_msg : s.tick.msg = s.msg := rfl
@[simp] theorem State.tick_failCode : s.tick.failCode = s.failCode := rfl
@[simp] theorem State.tick_outReq : s.tick.outReq = s.outReq := rfl
@[simp] theorem State.tick_out : s.tick.out = s.out := rfl
@[simp] theorem State.tick_da : s.tick.da = s.da := rfl
@[simp] theorem State.tick_db : s.tick.db = s.db := rfl
@[simp] theorem State.tick_acc : s.tick.acc = s.acc := rfl
@[simp] theorem State.tick_rowsPending : s.tick.rowsPending = s.rowsPending := rfl
@[simp] theorem State.tick_rowsDone : s.tick.rowsDone = s.rowsDone := rfl
@[simp] theorem State.tick_wk : s.tick.wk = s.wk := rfl
@[simp] theorem State.tick_faults : s.tick.faults = s.faults := rfl
@[simp] theorem State.tick_refusals : s.tick.refusals = s.refusals := rfl
@[simp] theorem State.tick_mem : s.tick.mem = s.mem := rfl
@[simp] theorem State.tick_host : s.tick.host = s.host := rfl
@[simp] theorem State.tick_rdata : s.tick.rdata = s.rdata := rfl
@[simp] theorem State.tick_live : s.tick.live = s.live := rfl
@[simp] theorem State.tick_cur : s.tick.cur = s.cur := rfl
@[simp] theorem State.tick_pick : s.tick.pick = Config.schedule s.draws := rfl
@[simp] theorem State.tick_draws : s.tick.draws = s.draws + 1 := rfl

/-! ### `State.popHost` -/
@[simp] theorem State.popHost_cfg : s.popHost.cfg = s.cfg := rfl
@[simp] theorem State.popHost_regs : s.popHost.regs = s.regs := rfl
@[simp] theorem State.popHost_arg : s.popHost.arg = s.arg := rfl
@[simp] theorem State.popHost_seq : s.popHost.seq = s.seq := rfl
@[simp] theorem State.popHost_code : s.popHost.code = s.code := rfl
@[simp] theorem State.popHost_cBase : s.popHost.cBase = s.cBase := rfl
@[simp] theorem State.popHost_cLen : s.popHost.cLen = s.cLen := rfl
@[simp] theorem State.popHost_msg : s.popHost.msg = s.msg := rfl
@[simp] theorem State.popHost_failCode : s.popHost.failCode = s.failCode := rfl
@[simp] theorem State.popHost_outReq : s.popHost.outReq = s.outReq := rfl
@[simp] theorem State.popHost_out : s.popHost.out = s.out := rfl
@[simp] theorem State.popHost_da : s.popHost.da = s.da := rfl
@[simp] theorem State.popHost_db : s.popHost.db = s.db := rfl
@[simp] theorem State.popHost_acc : s.popHost.acc = s.acc := rfl
@[simp] theorem State.popHost_rowsPending : s.popHost.rowsPending = s.rowsPending := rfl
@[simp] theorem State.popHost_rowsDone : s.popHost.rowsDone = s.rowsDone := rfl
@[simp] theorem State.popHost_wk : s.popHost.wk = s.wk := rfl
@[simp] theorem State.popHost_faults : s.popHost.faults = s.faults := rfl
@[simp] theorem State.popHost_refusals : s.popHost.refusals = s.refusals := rfl
@[simp] theorem State.popHost_mem : s.popHost.mem = s.mem := rfl
@[simp] theorem State.popHost_host : s.popHost.host = s.host.drop 1 := rfl
@[simp] theorem State.popHost_rdata : s.popHost.rdata = s.rdata := rfl
@[simp] theorem State.popHost_live : s.popHost.live = s.live := rfl
@[simp] theorem State.popHost_cur : s.popHost.cur = s.cur := rfl
@[simp] theorem State.popHost_pick : s.popHost.pick = s.pick := rfl
@[simp] theorem State.popHost_draws : s.popHost.draws = s.draws := rfl

/-! ### `State.unspecify` -/
@[simp] theorem State.unspecify_cfg (r : Region) : (s.unspecify r).cfg = s.cfg := rfl
@[simp] theorem State.unspecify_regs (r : Region) : (s.unspecify r).regs = s.regs := rfl
@[simp] theorem State.unspecify_arg (r : Region) : (s.unspecify r).arg = s.arg := rfl
@[simp] theorem State.unspecify_seq (r : Region) : (s.unspecify r).seq = s.seq := rfl
@[simp] theorem State.unspecify_code (r : Region) : (s.unspecify r).code = s.code := rfl
@[simp] theorem State.unspecify_cBase (r : Region) : (s.unspecify r).cBase = s.cBase := rfl
@[simp] theorem State.unspecify_cLen (r : Region) : (s.unspecify r).cLen = s.cLen := rfl
@[simp] theorem State.unspecify_msg (r : Region) : (s.unspecify r).msg = s.msg := rfl
@[simp] theorem State.unspecify_failCode (r : Region) : (s.unspecify r).failCode = s.failCode := rfl
@[simp] theorem State.unspecify_outReq (r : Region) : (s.unspecify r).outReq = s.outReq := rfl
@[simp] theorem State.unspecify_out (r : Region) : (s.unspecify r).out = s.out := rfl
@[simp] theorem State.unspecify_da (r : Region) : (s.unspecify r).da = s.da := rfl
@[simp] theorem State.unspecify_db (r : Region) : (s.unspecify r).db = s.db := rfl
@[simp] theorem State.unspecify_acc (r : Region) : (s.unspecify r).acc = s.acc := rfl
@[simp] theorem State.unspecify_rowsPending (r : Region) : (s.unspecify r).rowsPending = s.rowsPending := rfl
@[simp] theorem State.unspecify_rowsDone (r : Region) : (s.unspecify r).rowsDone = s.rowsDone := rfl
@[simp] theorem State.unspecify_wk (r : Region) : (s.unspecify r).wk = s.wk := rfl
@[simp] theorem State.unspecify_faults (r : Region) : (s.unspecify r).faults = s.faults := rfl
@[simp] theorem State.unspecify_refusals (r : Region) : (s.unspecify r).refusals = s.refusals := rfl
@[simp] theorem State.unspecify_mem (r : Region) : (s.unspecify r).mem = Memory.fill (Config.regionByte s.draws) s.mem r.base r.len := rfl
@[simp] theorem State.unspecify_host (r : Region) : (s.unspecify r).host = s.host := rfl
@[simp] theorem State.unspecify_rdata (r : Region) : (s.unspecify r).rdata = s.rdata := rfl
@[simp] theorem State.unspecify_live (r : Region) : (s.unspecify r).live = s.live := rfl
@[simp] theorem State.unspecify_cur (r : Region) : (s.unspecify r).cur = s.cur := rfl
@[simp] theorem State.unspecify_pick (r : Region) : (s.unspecify r).pick = s.pick := rfl
@[simp] theorem State.unspecify_draws (r : Region) : (s.unspecify r).draws = s.draws + 1 := rfl

/-! ### `State.grant` -/
@[simp] theorem State.grant_cfg (r : Region) : (s.grant r).cfg = s.cfg := rfl
@[simp] theorem State.grant_regs (r : Region) : (s.grant r).regs = s.regs := rfl
@[simp] theorem State.grant_arg (r : Region) : (s.grant r).arg = s.arg := rfl
@[simp] theorem State.grant_seq (r : Region) : (s.grant r).seq = s.seq := rfl
@[simp] theorem State.grant_code (r : Region) : (s.grant r).code = s.code := rfl
@[simp] theorem State.grant_cBase (r : Region) : (s.grant r).cBase = s.cBase := rfl
@[simp] theorem State.grant_cLen (r : Region) : (s.grant r).cLen = s.cLen := rfl
@[simp] theorem State.grant_msg (r : Region) : (s.grant r).msg = s.msg := rfl
@[simp] theorem State.grant_failCode (r : Region) : (s.grant r).failCode = s.failCode := rfl
@[simp] theorem State.grant_outReq (r : Region) : (s.grant r).outReq = s.outReq := rfl
@[simp] theorem State.grant_out (r : Region) : (s.grant r).out = some r := rfl
@[simp] theorem State.grant_da (r : Region) : (s.grant r).da = s.da := rfl
@[simp] theorem State.grant_db (r : Region) : (s.grant r).db = s.db := rfl
@[simp] theorem State.grant_acc (r : Region) : (s.grant r).acc = s.acc := rfl
@[simp] theorem State.grant_rowsPending (r : Region) : (s.grant r).rowsPending = s.rowsPending := rfl
@[simp] theorem State.grant_rowsDone (r : Region) : (s.grant r).rowsDone = s.rowsDone := rfl
@[simp] theorem State.grant_wk (r : Region) : (s.grant r).wk = s.wk := rfl
@[simp] theorem State.grant_faults (r : Region) : (s.grant r).faults = s.faults := rfl
@[simp] theorem State.grant_refusals (r : Region) : (s.grant r).refusals = s.refusals := rfl
@[simp] theorem State.grant_mem (r : Region) : (s.grant r).mem = Memory.fill (Config.regionByte s.draws) s.mem r.base r.len := rfl
@[simp] theorem State.grant_host (r : Region) : (s.grant r).host = s.host := rfl
@[simp] theorem State.grant_rdata (r : Region) : (s.grant r).rdata = s.rdata := rfl
@[simp] theorem State.grant_live (r : Region) : (s.grant r).live = r :: s.live := rfl
@[simp] theorem State.grant_cur (r : Region) : (s.grant r).cur = s.cur := rfl
@[simp] theorem State.grant_pick (r : Region) : (s.grant r).pick = s.pick := rfl
@[simp] theorem State.grant_draws (r : Region) : (s.grant r).draws = s.draws + 1 := rfl

/-! ### `State.takeStores` -/
@[simp] theorem State.takeStores_cfg : s.takeStores.cfg = s.cfg := rfl
@[simp] theorem State.takeStores_regs : s.takeStores.regs = s.regs := rfl
@[simp] theorem State.takeStores_arg : s.takeStores.arg = s.arg := rfl
@[simp] theorem State.takeStores_seq : s.takeStores.seq = s.seq := rfl
@[simp] theorem State.takeStores_code : s.takeStores.code = s.code := rfl
@[simp] theorem State.takeStores_cBase : s.takeStores.cBase = s.cBase := rfl
@[simp] theorem State.takeStores_cLen : s.takeStores.cLen = s.cLen := rfl
@[simp] theorem State.takeStores_msg : s.takeStores.msg = s.msg := rfl
@[simp] theorem State.takeStores_failCode : s.takeStores.failCode = s.failCode := rfl
@[simp] theorem State.takeStores_outReq : s.takeStores.outReq = s.outReq := rfl
@[simp] theorem State.takeStores_out : s.takeStores.out = s.out := rfl
@[simp] theorem State.takeStores_da : s.takeStores.da = unsetCells (s.arg.m * s.arg.k) := rfl
@[simp] theorem State.takeStores_db : s.takeStores.db = unsetCells (s.arg.k * s.arg.n) := rfl
@[simp] theorem State.takeStores_acc : s.takeStores.acc = unsetCells (s.arg.m * s.arg.n) := rfl
@[simp] theorem State.takeStores_rowsPending : s.takeStores.rowsPending = s.rowsPending := rfl
@[simp] theorem State.takeStores_rowsDone : s.takeStores.rowsDone = s.rowsDone := rfl
@[simp] theorem State.takeStores_wk : s.takeStores.wk = s.wk := rfl
@[simp] theorem State.takeStores_faults : s.takeStores.faults = s.faults := rfl
@[simp] theorem State.takeStores_refusals : s.takeStores.refusals = s.refusals := rfl
@[simp] theorem State.takeStores_mem : s.takeStores.mem = s.mem := rfl
@[simp] theorem State.takeStores_host : s.takeStores.host = s.host := rfl
@[simp] theorem State.takeStores_rdata : s.takeStores.rdata = s.rdata := rfl
@[simp] theorem State.takeStores_live : s.takeStores.live = s.live := rfl
@[simp] theorem State.takeStores_cur : s.takeStores.cur = s.cur := rfl
@[simp] theorem State.takeStores_pick : s.takeStores.pick = s.pick := rfl
@[simp] theorem State.takeStores_draws : s.takeStores.draws = s.draws := rfl

/-! ### `State.dropStores` -/
@[simp] theorem State.dropStores_cfg : s.dropStores.cfg = s.cfg := rfl
@[simp] theorem State.dropStores_regs : s.dropStores.regs = s.regs := rfl
@[simp] theorem State.dropStores_arg : s.dropStores.arg = s.arg := rfl
@[simp] theorem State.dropStores_seq : s.dropStores.seq = s.seq := rfl
@[simp] theorem State.dropStores_code : s.dropStores.code = s.code := rfl
@[simp] theorem State.dropStores_cBase : s.dropStores.cBase = s.cBase := rfl
@[simp] theorem State.dropStores_cLen : s.dropStores.cLen = s.cLen := rfl
@[simp] theorem State.dropStores_msg : s.dropStores.msg = s.msg := rfl
@[simp] theorem State.dropStores_failCode : s.dropStores.failCode = s.failCode := rfl
@[simp] theorem State.dropStores_outReq : s.dropStores.outReq = s.outReq := rfl
@[simp] theorem State.dropStores_out : s.dropStores.out = s.out := rfl
@[simp] theorem State.dropStores_da : s.dropStores.da = [] := rfl
@[simp] theorem State.dropStores_db : s.dropStores.db = [] := rfl
@[simp] theorem State.dropStores_acc : s.dropStores.acc = [] := rfl
@[simp] theorem State.dropStores_rowsPending : s.dropStores.rowsPending = s.rowsPending := rfl
@[simp] theorem State.dropStores_rowsDone : s.dropStores.rowsDone = s.rowsDone := rfl
@[simp] theorem State.dropStores_wk : s.dropStores.wk = s.wk := rfl
@[simp] theorem State.dropStores_faults : s.dropStores.faults = s.faults := rfl
@[simp] theorem State.dropStores_refusals : s.dropStores.refusals = s.refusals := rfl
@[simp] theorem State.dropStores_mem : s.dropStores.mem = s.mem := rfl
@[simp] theorem State.dropStores_host : s.dropStores.host = s.host := rfl
@[simp] theorem State.dropStores_rdata : s.dropStores.rdata = s.rdata := rfl
@[simp] theorem State.dropStores_live : s.dropStores.live = s.live := rfl
@[simp] theorem State.dropStores_cur : s.dropStores.cur = s.cur := rfl
@[simp] theorem State.dropStores_pick : s.dropStores.pick = s.pick := rfl
@[simp] theorem State.dropStores_draws : s.dropStores.draws = s.draws := rfl

/-! ### `State.stopWorkers` -/
@[simp] theorem State.stopWorkers_cfg : s.stopWorkers.cfg = s.cfg := rfl
@[simp] theorem State.stopWorkers_regs : s.stopWorkers.regs = s.regs := rfl
@[simp] theorem State.stopWorkers_arg : s.stopWorkers.arg = s.arg := rfl
@[simp] theorem State.stopWorkers_seq : s.stopWorkers.seq = s.seq := rfl
@[simp] theorem State.stopWorkers_code : s.stopWorkers.code = s.code := rfl
@[simp] theorem State.stopWorkers_cBase : s.stopWorkers.cBase = s.cBase := rfl
@[simp] theorem State.stopWorkers_cLen : s.stopWorkers.cLen = s.cLen := rfl
@[simp] theorem State.stopWorkers_msg : s.stopWorkers.msg = s.msg := rfl
@[simp] theorem State.stopWorkers_failCode : s.stopWorkers.failCode = s.failCode := rfl
@[simp] theorem State.stopWorkers_outReq : s.stopWorkers.outReq = s.outReq := rfl
@[simp] theorem State.stopWorkers_out : s.stopWorkers.out = s.out := rfl
@[simp] theorem State.stopWorkers_da : s.stopWorkers.da = s.da := rfl
@[simp] theorem State.stopWorkers_db : s.stopWorkers.db = s.db := rfl
@[simp] theorem State.stopWorkers_acc : s.stopWorkers.acc = s.acc := rfl
@[simp] theorem State.stopWorkers_rowsPending : s.stopWorkers.rowsPending = [] := rfl
@[simp] theorem State.stopWorkers_rowsDone : s.stopWorkers.rowsDone = [] := rfl
@[simp] theorem State.stopWorkers_wk : s.stopWorkers.wk = s.wk.map (fun _ => .idle) := rfl
@[simp] theorem State.stopWorkers_faults : s.stopWorkers.faults = s.faults := rfl
@[simp] theorem State.stopWorkers_refusals : s.stopWorkers.refusals = s.refusals := rfl
@[simp] theorem State.stopWorkers_mem : s.stopWorkers.mem = s.mem := rfl
@[simp] theorem State.stopWorkers_host : s.stopWorkers.host = s.host := rfl
@[simp] theorem State.stopWorkers_rdata : s.stopWorkers.rdata = s.rdata := rfl
@[simp] theorem State.stopWorkers_live : s.stopWorkers.live = s.live := rfl
@[simp] theorem State.stopWorkers_cur : s.stopWorkers.cur = s.cur := rfl
@[simp] theorem State.stopWorkers_pick : s.stopWorkers.pick = s.pick := rfl
@[simp] theorem State.stopWorkers_draws : s.stopWorkers.draws = s.draws := rfl

end Sys2Proof.Machine
end

