-- ==== Sys2Proof/Laws/Step.lean ====
section
/-! SUPPORT. Everything one step of the machine can do. -/

namespace Sys2Proof.Machine

/-- The agent that moves is one that has a step. -/
theorem mover_mem {s : State} {g : Agent} (h : s.mover = some g) : g ∈ s.agents := List.mem_of_getElem? h

/-- No agent moves only when none has a step. -/
theorem agents_of_mover_none {s : State} (h : s.mover = none) : s.agents = [] := by
  by_contra hne
  have := List.length_pos_iff.mpr hne
  exact absurd (List.getElem?_eq_none_iff.mp h) (by simpa using Nat.mod_lt _ this)

/-- The agent that moves does its step on the state with the next choice drawn. -/
theorem step_of_mover {s : State} {g : Agent} (h : s.mover = some g) : step s = runAgent g s.tick := by
  unfold step stepOf
  rw [h]

/-- With no agent ready the machine rests. -/
theorem step_of_no_mover {s : State} (h : s.mover = none) : step s = s.rest := by
  unfold step stepOf
  rw [h]

@[simp] theorem tick_agents_workerStep (s : State) (w : Nat) : workerStep s.tick w = workerStep s w := rfl

/-- The agents of the block are not the host. -/
theorem host_not_blockAgent (s : State) : Agent.host ∉ s.blockAgents := by
  unfold State.blockAgents
  split
  · simp
  · simp only [List.mem_append, List.mem_map, List.mem_filter]
    rintro ((h | h) | ⟨_, _, h⟩)
    · split at h <;> simp at h
    · split at h <;> simp at h
    · cases h

/-- An agent of the block that has a step: no model fault is recorded, and its own condition holds. -/
theorem blockAgent_ready {s : State} {g : Agent} (hg : g ∈ s.agents) (hh : g ≠ .host) :
    s.faults = [] ∧ (g = .sequencer → s.sequencerReady = true) ∧ (g = .other → s.otherReady = true) ∧
      ∀ w, g = .worker w → s.workerReady w = true ∧ w < s.wk.length := by
  unfold State.agents State.blockAgents at hg
  rw [List.mem_append] at hg
  rcases hg with hg | hg
  · split at hg
    · exact absurd (List.mem_singleton.mp hg) hh
    · simp at hg
  · split at hg
    · simp at hg
    · rename_i hf
      refine ⟨by simpa using hf, ?_⟩
      simp only [List.mem_append, List.mem_map, List.mem_filter, List.mem_range] at hg
      rcases hg with (hg | hg) | ⟨w, ⟨hw, hr⟩, rfl⟩
      · split at hg <;> simp_all
      · split at hg <;> simp_all
      · simp [hr, hw]

/-- Everything a step that answers a next state can be: a rest, an interaction of the host, the micro-operation SEQ names, the Other step, or a
worker's micro-operation. -/
theorem step_next {s t : State} (h : step s = .next t) :
    (s.mover = none ∧ s.agents = [] ∧ s.faults = [] ∧ t = s) ∨
    (s.mover = some .host ∧ hostStep s.tick = .next t) ∨
    (s.mover = some .sequencer ∧ s.faults = [] ∧ s.sequencerReady = true ∧ ∃ i, s.seq.uop = some i ∧ exec i s.tick = .next t) ∨
    (s.mover = some .other ∧ s.faults = [] ∧ s.otherReady = true ∧ t = s.tick.other) ∨
    (∃ w i, s.mover = some (.worker w) ∧ s.faults = [] ∧ s.seq = .join ∧ w < s.wk.length ∧ workerStep s w = some i ∧
      exec i { s.tick with cur := w } = .next t) := by
  cases hm : s.mover with
  | none =>
    rw [step_of_no_mover hm] at h
    unfold State.rest at h
    split at h
    · cases h
    · cases h
      exact .inl ⟨rfl, agents_of_mover_none hm, ‹_›, rfl⟩
  | some g =>
    rw [step_of_mover hm] at h
    have hg := mover_mem hm
    cases g with
    | host => exact .inr (.inl ⟨rfl, h⟩)
    | sequencer =>
      obtain ⟨hf, hr, -, -⟩ := blockAgent_ready hg (by simp)
      have hr' := hr rfl
      have hr := hr rfl
      unfold State.sequencerReady at hr
      obtain ⟨i, hi⟩ := Option.isSome_iff_exists.mp (Bool.and_eq_true_iff.mp hr).1
      unfold runAgent at h
      simp only [State.tick_seq, hi] at h
      exact .inr (.inr (.inl ⟨rfl, hf, hr', i, hi, h⟩))
    | other =>
      obtain ⟨hf, -, hr, -⟩ := blockAgent_ready hg (by simp)
      cases h
      exact .inr (.inr (.inr (.inl ⟨rfl, hf, hr rfl, rfl⟩)))
    | worker w =>
      obtain ⟨hf, -, -, hr⟩ := blockAgent_ready hg (by simp)
      obtain ⟨hr, hw⟩ := hr w rfl
      unfold State.workerReady at hr
      obtain ⟨hj, hr⟩ := Bool.and_eq_true_iff.mp hr
      obtain ⟨i, hi⟩ := Option.isSome_iff_exists.mp hr
      unfold runAgent at h
      simp only [tick_agents_workerStep, hi] at h
      exact .inr (.inr (.inr (.inr ⟨w, i, rfl, hf, by simpa using hj, hw, hi, h⟩)))

/-- The host may write a byte outside the region the block owns, and, while a call runs, outside both input buffers. -/
theorem protects_eq_false {s : State} {a : Nat}
    (hin : s.busy = false ∨ (s.arg.bufferA.holds a = false ∧ s.arg.bufferB.holds a = false))
    (hout : ∀ r, s.out = some r → r.holds a = false) : s.protects a = false := by
  unfold State.protects State.ownsByte
  cases ho : s.out with
  | none => rcases hin with h | ⟨h1, h2⟩ <;> simp [*]
  | some r => rcases hin with h | ⟨h1, h2⟩ <;> simp [*, hout r ho]

/-- A host read of memory gives the byte written there last, at DONE or outside the region the block owns. -/
theorem peekByte_eq {s : State} {a : Nat} (h : s.seq = .done ∨ ∀ r, s.out = some r → r.holds a = false) :
    s.peekByte a = s.mem.byteAt a := by
  unfold State.peekByte State.ownsByte
  rcases h with h | h
  · simp [h]
  · cases ho : s.out with
    | none => simp
    | some r => simp [h r ho]

/-- Everything an interaction of the host that answers a next state can be. -/
theorem hostStep_next {s t : State} (h : hostStep s = .next t) :
    (s.host = [] ∧ t = s) ∨
    (∃ w rest, s.host = .cmd w :: rest ∧
      ((∃ e, decode (.cmd32 w) = .error e ∧ t = s.popHost.refuse .reservedCmd) ∨
       (∃ i, decode (.cmd32 w) = .ok i ∧ s.faults = [] ∧ exec i s.popHost = .next t))) ∨
    (∃ act rest, s.host = act :: rest ∧ (∀ w, act ≠ .cmd w) ∧ hostTouch s.popHost act = .next t) := by
  unfold hostStep at h
  split at h
  · cases h
    exact .inl ⟨‹_›, rfl⟩
  · rename_i w rest hq
    unfold writeCmd at h
    refine .inr (.inl ⟨w, rest, hq, ?_⟩)
    split at h
    · cases h
      exact .inl ⟨_, ‹_›, rfl⟩
    · rename_i i hi
      split at h
      · cases h
      · rename_i hf
        exact .inr ⟨i, hi, by simpa using hf, h⟩
  · rename_i act rest hne hq
    exact .inr (.inr ⟨act, rest, hq, fun w hw => hne w hw, h⟩)

end Sys2Proof.Machine
end

