-- ==== Sys2Proof/Tests/Slice0.lean ====
section
/-! SUPPORT. Tests: ill-formed terms refused, codes written out from spec/30, vectors of spec/95 on single steps, and for every statement with
hypotheses a witness that meets them, clause by clause. -/

namespace Sys2Proof.Tests

open Sys2Proof.Machine

/-! ### Helpers -/

/-- Two workers and 16-bit sizes, the spec's defaults otherwise. -/
def cfg16 : Config := { Config.standard with sizeW := 16, workers := 2 }

/-- The machine after reset with 16-bit sizes. -/
def s16 : State := State.resetWith cfg16

/-- A call's arguments, with both buffers at fixed places. -/
def withShape (s : State) (m n k aLen bLen : Nat) : State := { s with arg := ⟨0x1000, aLen, 0x2000, bLen, m, n, k⟩ }

/-- The next state of an outcome, if it has one. -/
def after : Host.Outcome State Fault Refusal → Option State
  | .next t => some t
  | _ => none

/-- An outcome with a next state is one. -/
theorem exists_of_after {o : Host.Outcome State Fault Refusal} (h : (after o).isSome = true) : ∃ t, o = .next t := by
  cases o with
  | next t => exact ⟨t, rfl⟩
  | fault r => cases h
  | refused r => cases h

/-- Something of the next state. -/
def see {α : Type} (f : State → α) (o : Host.Outcome State Fault Refusal) : Option α := (after o).map f

/-- The operand registers of program P1 of spec/95. -/
def regsP1 : OperandRegs := ⟨some 0x1000, some 8, some 0x2000, some 8, some 2, some 2, some 2⟩

/-- 1.0 as an fp32 pattern. -/
def one : Single := 0x3F800000

/-- The multiply phase of a call with m = 2, n = 1, k = 9 and every element 1.0: row 0 is done, worker 0 is at index 8 of row 1. -/
def joinS : State :=
  { withShape s16 2 1 9 36 18 with
    seq := .join
    outReq := 4
    out := some ⟨0x3000, 4⟩
    live := [⟨0x3000, 4⟩]
    da := List.replicate 18 (some one)
    db := List.replicate 9 (some one)
    acc := [some 0x41100000, some 0]
    rowsDone := [0]
    wk := [.row 1 0 8 (some 0x41000000), .idle] }

/-- The same call with every row done. -/
def encodeS : State :=
  { joinS with seq := .encode, acc := [some 0x41100000, some 0x41100000], rowsDone := [0, 1], wk := [.idle, .idle] }

/-- The same call with its result written. -/
def respondS : State :=
  { encodeS with seq := .respondOk, mem := [(0x3000, 0x80), (0x3001, 0x48), (0x3002, 0x80), (0x3003, 0x48)] }

/-- The same call at DONE. -/
def doneS : State :=
  { respondS with seq := .done, cBase := 0x3000, cLen := 4, da := [], db := [], acc := [] }

/-- A worker of the shape 1×1 by `k`, alone, with every store cell 1.0. -/
def workerS (k : Nat) (x : Worker) : State :=
  { withShape s16 1 1 k (2 * k) (2 * k) with
    seq := .join
    da := List.replicate k (some one)
    db := List.replicate k (some one)
    acc := [some 0]
    wk := [x, .idle] }

/-! ### Ill-formed terms -/

theorem test_wf_rejects_sizeW_zero : ¬ Config.wf { Config.standard with sizeW := 0 } := by decide
theorem test_wf_rejects_no_worker : ¬ Config.wf { Config.standard with workers := 0 } := by decide
theorem test_wf_rejects_wide_write : (HostAction.wr .m 65536).wf cfg16 = false := by decide
theorem test_wf_rejects_poke_outside : (HostAction.poke 65536 0).wf cfg16 = false := by decide
theorem test_wf_rejects_peek_outside : (HostAction.peek 65536).wf cfg16 = false := by decide
theorem test_wf_rejects_free_outside : (HostAction.free ⟨65535, 2⟩).wf cfg16 = false := by decide
theorem test_wf_accepts_edges : (HostAction.wr .m 65535).wf cfg16 = true ∧ (HostAction.free ⟨65535, 1⟩).wf cfg16 = true := by decide
theorem test_memory_wf_rejects_disorder : Memory.wf [(2, 0), (1, 0)] = false ∧ Memory.wf [(1, 0), (1, 0)] = false := by decide

/-! ### Codes written out bit by bit (spec/30 R86 to R91; spec/95 EN-3 to EN-6, EN-11, EN-12) -/

theorem test_decode_multiply : decode (.cmd32 0b00000000000000000000000000000001) = .ok .multiply := by rfl
theorem test_decode_ack : decode (.cmd32 0b00000000000000000000000000000010) = .ok .ack := by rfl
theorem test_decode_validateA : decode (.uop8 0b00010000) = .ok .validateA := by rfl
theorem test_decode_validateB : decode (.uop8 0b00010001) = .ok .validateB := by rfl
theorem test_decode_sizeOut : decode (.uop8 0b00010010) = .ok .sizeOut := by rfl
theorem test_decode_alloc : decode (.uop8 0b00010011) = .ok .alloc := by rfl
theorem test_decode_decodeA : decode (.uop8 0b00010100) = .ok .decodeA := by rfl
theorem test_decode_decodeB : decode (.uop8 0b00010101) = .ok .decodeB := by rfl
theorem test_decode_accClear : decode (.uop8 0b00010110) = .ok .accClear := by rfl
theorem test_decode_dispatch : decode (.uop8 0b00010111) = .ok .dispatch := by rfl
theorem test_decode_join : decode (.uop8 0b00011000) = .ok .join := by rfl
theorem test_decode_encode : decode (.uop8 0b00011001) = .ok .encode := by rfl
theorem test_decode_respondOk : decode (.uop8 0b00011010) = .ok .respondOk := by rfl
theorem test_decode_respondFail : decode (.uop8 0b00011011) = .ok .respondFail := by rfl
theorem test_decode_rowClaim : decode (.uop8 0b00100000) = .ok .rowClaim := by rfl
theorem test_decode_elemInit : decode (.uop8 0b00100001) = .ok .elemInit := by rfl
theorem test_decode_group8 : decode (.uop8 0b00100010) = .ok .group8 := by rfl
theorem test_decode_mac1 : decode (.uop8 0b00100011) = .ok .mac1 := by rfl
theorem test_decode_elemStore : decode (.uop8 0b00100100) = .ok .elemStore := by rfl
theorem test_decode_rowDone : decode (.uop8 0b00100101) = .ok .rowDone := by rfl

/-- EN-3 to EN-6. -/
theorem test_decode_reserved_words :
    decode (.cmd32 0x00000000) = .error (.reservedOp 0) ∧ decode (.cmd32 0x00000003) = .error (.reservedOp 3) ∧
    decode (.cmd32 0x00000101) = .error (.reservedField 1) ∧ decode (.cmd32 0x80000002) = .error (.reservedField 0x800000) :=
  ⟨rfl, rfl, rfl, rfl⟩

/-- spec/30 R91: codes next to the assigned ones are unassigned. -/
theorem test_decode_unassigned :
    decode (.uop8 0x1C) = .error (.unassigned 0x1C) ∧ decode (.uop8 0x26) = .error (.unassigned 0x26) ∧
    decode (.uop8 0x01) = .error (.unassigned 0x01) ∧ decode (.uop8 0x30) = .error (.unassigned 0x30) :=
  ⟨rfl, rfl, rfl, rfl⟩

theorem test_decodeTableWord :
    decodeTableWord 32 2 = some .ack ∧ decodeTableWord 8 0x22 = some .group8 ∧ decodeTableWord 8 0x122 = none ∧
    decodeTableWord 16 1 = none := by decide

/-! ### STATUS (spec/95 EN-7 to EN-10) -/

theorem test_status_words :
    s16.status = 0x00000000 ∧ joinS.status = 0x00000001 ∧ doneS.status = 0x00000002 ∧
    { doneS with code := 1 }.status = 0x00000102 ∧ { doneS with code := 4 }.status = 0x00000402 := by decide

/-! ### Conversions (spec/95 DE-1 to DE-19, EC-1 to EC-32) -/

theorem test_dec16_vectors :
    ([(0x0000, 0x00000000), (0x8000, 0x80000000), (0x0001, 0x33800000), (0x8001, 0xB3800000), (0x03FF, 0x387FC000),
      (0x0400, 0x38800000), (0x3C00, 0x3F800000), (0x3C01, 0x3F802000), (0x3555, 0x3EAAA000), (0xC000, 0xC0000000)] ++
     [(0x7BFF, 0x477FE000), (0xFBFF, 0xC77FE000), (0x7C00, 0x7F800000), (0xFC00, 0xFF800000), (0x7E00, 0x7FC00000),
      (0xFE00, 0xFFC00000), (0x7C01, 0x7FC02000), (0x7D00, 0x7FE00000), (0x7FFF, 0x7FFFE000)] : List (Half × Single)).all
      (fun v => decide (dec16 .quieting v.1 = v.2)) = true := by decide +kernel

theorem test_enc16_vectors :
    ([(0x00000000, 0x0000), (0x80000000, 0x8000), (0x00000001, 0x0000), (0x80000001, 0x8000), (0x3F800000, 0x3C00),
      (0x3F801000, 0x3C00), (0x3F801001, 0x3C01), (0x3F803000, 0x3C02), (0x3F7FF000, 0x3C00), (0x38800000, 0x0400),
      (0x387FE000, 0x0400)] ++
     [(0x387FC000, 0x03FF), (0x33800000, 0x0001), (0x33000000, 0x0000), (0x33000001, 0x0001), (0x33C00000, 0x0002),
      (0x322BCC77, 0x0000), (0x3DCCCCCD, 0x2E66), (0x3EAAAAAB, 0x3555), (0x477FE000, 0x7BFF), (0x477FEFFF, 0x7BFF)] ++
     [(0x477FF000, 0x7C00), (0xC77FF000, 0xFC00), (0x47800000, 0x7C00), (0x47C35000, 0x7C00), (0x7F7FFFFF, 0x7C00),
      (0x7F800000, 0x7C00), (0xFF800000, 0xFC00), (0x7FC00000, 0x7E00), (0x7F800001, 0x7E00), (0xFFFFFFFF, 0xFFFF),
      (0x7FA00000, 0x7F00)] : List (Single × Half)).all
      (fun v => decide (enc16 .quieting v.1 = v.2)) = true := by decide +kernel

/-! ### Arithmetic (spec/42 R157 to R159; spec/95 GE-12, GE-16, GE-17) -/

/-- 2^24 + 1 is a tie and goes to the even 2^24; 2^-24 * 2^-24 is 2^-48; 2^-24 * 1024 is 2^-14; the largest finite value doubled overflows. -/
theorem test_arithmetic :
    fadd 0 0x4B800000 0x3F800000 = 0x4B800000 ∧ fmul 0 0x33800000 0x33800000 = 0x27800000 ∧
    fmul 0 0x33800000 0x44800000 = 0x38800000 ∧ fadd 0 0x7F7FFFFF 0x7F7FFFFF = 0x7F800000 := by decide +kernel

/-- 1 + -1 is +0; -0 + -0 is -0; -0 + +0 is +0; the smallest subnormal survives; -0 * 1 is -0. -/
theorem test_signed_zero :
    fadd 0 0x3F800000 0xBF800000 = 0 ∧ fadd 0 0x80000000 0x80000000 = 0x80000000 ∧ fadd 0 0x80000000 0 = 0 ∧
    fadd 0 1 0 = 1 ∧ fmul 0 0x80000000 0x3F800000 = 0x80000000 := by decide +kernel

/-- Infinity less infinity, and infinity times zero, give the NaN supplied. -/
theorem test_invalid :
    fadd 0x7FC00000 0x7F800000 0xFF800000 = 0x7FC00000 ∧ fmul 0x7FC00000 0x7F800000 0x80000000 = 0x7FC00000 ∧
    fadd 0x7FC00000 0xFF800000 0x3F800000 = 0xFF800000 ∧ fmul 0x7FC00000 0xFF800000 0xBF800000 = 0x7F800000 := by decide +kernel

/-- The stores of GE-12. -/
def ge12 (o : SumOrder) : State :=
  { withShape { s16 with cfg := { cfg16 with sumOrder := o } } 1 1 16 32 32 with
    da := some 0x45800000 :: List.replicate 7 (some 0) ++ List.replicate 7 (some one) ++ [some 0x45800000]
    db := some 0x45800000 :: List.replicate 7 (some 0) ++ List.replicate 7 (some one) ++ [some 0xC5800000] }

/-- GE-12: 7.0 under GROUPED and 0.0 under LINEAR. -/
theorem test_ge12 : (ge12 .grouped).dot 0 0 = 0x40E00000 ∧ (ge12 .linear).dot 0 0 = 0 := by decide +kernel

/-! ### Commands (spec/95 FR-1 to FR-4, spec/40 R110, R117) -/

/-- P1: MULTIPLY makes the call BUSY at VALIDATE_A. -/
theorem test_multiply_starts :
    see (fun t => (t.seq, t.arg.aLen, t.status)) (exec .multiply { State.reset with regs := regsP1 }) = some (.validateA, 8, 1) := by decide
/-- FR-1 to FR-3: no operand register written, a second MULTIPLY, a descriptor out of range; and R232, a refusal recorded before. -/
theorem test_multiply_turned_away :
    see State.faults (exec .multiply State.reset) = some [.unsetRead] ∧
    see (fun t => (t.seq, t.refusals)) (exec .multiply { joinS with regs := regsP1 }) = some (.join, [.cmdWhileBusy]) ∧
    see (fun t => (t.seq, t.refusals)) (exec .multiply { State.reset with regs := { regsP1 with aBase := some (2 ^ 64 - 4) } }) =
      some (.idle, [.range]) ∧
    see (fun t => (t.seq, t.refusals)) (exec .multiply { State.reset with regs := regsP1, refusals := [.ackNotDone] }) =
      some (.idle, [.ackNotDone]) := by decide
/-- FR-4: ACK in IDLE. -/
theorem test_ack_idle : see State.refusals (exec .ack State.reset) = some [.ackNotDone] := by decide
/-- P1: ACK at DONE makes STATUS 0. -/
theorem test_ack_done : see (fun t => (t.status, t.seq, t.out)) (exec .ack doneS) = some (0, .idle, none) := by decide

/-! ### The validator (spec/95 SV-1 to SV-8, FR-6) -/

/-- SV-1 and SV-3. -/
theorem test_validateA :
    see State.seq (exec .validateA (withShape s16 2 2 2 8 8)) = some .validateB ∧
    see (fun t => (t.seq, t.failCode)) (exec .validateA (withShape s16 2 2 2 9 8)) = some (.respondFail, 1) := by decide
/-- SV-7 and SV-8: an expected length of 65536 bytes in 16 bits; FR-6 under MAXIMAL. -/
theorem test_validateA_overflow :
    see State.failCode (exec .validateA (withShape s16 1 0 32768 65535 0)) = some 1 ∧
    see State.failCode (exec .validateA (withShape s16 1 0 32768 0 0)) = some 1 ∧
    see State.faults (exec .validateA (withShape { s16 with cfg := { cfg16 with satReading := .maximal } } 1 0 32768 65535 0)) =
      some [.satMatch] := by decide
/-- SV-1 and SV-6; the order of the checks. -/
theorem test_validateB :
    see State.seq (exec .validateB (withShape s16 2 2 2 8 8)) = some .sizeOut ∧
    see State.failCode (exec .validateB (withShape s16 2 2 2 8 10)) = some 1 ∧
    see State.seq (exec .validateB (withShape { s16 with cfg := { cfg16 with checkOrder := .sizeFirst } } 2 2 2 8 8)) = some .alloc := by
  decide

/-! ### SIZE_OUT, ALLOC (spec/95 SZ-1 to SZ-6, FR-5) -/

/-- SZ-1, SZ-4 and SZ-5. -/
theorem test_sizeOut :
    see State.outReq (exec .sizeOut (withShape s16 127 258 0 0 0)) = some 65532 ∧
    see State.outReq (exec .sizeOut (withShape s16 0 65535 0 0 0)) = some 0 ∧
    see State.outReq (exec .sizeOut (withShape s16 1 32767 0 0 0)) = some 65534 := by decide
/-- SZ-2, SZ-3 and SZ-6. -/
theorem test_sizeOut_overflow :
    see State.failCode (exec .sizeOut (withShape s16 256 256 0 0 0)) = some 2 ∧
    see State.failCode (exec .sizeOut (withShape s16 128 256 0 0 0)) = some 2 ∧
    see State.failCode (exec .sizeOut (withShape s16 1 32768 0 0 0)) = some 2 := by decide
/-- spec/40 R114: a result of no bytes; the stores taken, every cell unset. -/
theorem test_alloc_empty :
    see (fun t => (t.da, t.db, t.acc, t.seq)) (exec .alloc (withShape s16 0 1 2 0 4)) = some ([], [none, none], [], .decodeA) := by decide
/-- FR-5, and a request over MAX_ALLOC_BYTES. -/
theorem test_alloc_limits :
    see State.faults (exec .alloc (withShape { s16 with cfg := { cfg16 with daCap := some 3 } } 2 2 2 8 8)) = some [.capacity] ∧
    see State.failCode (exec .alloc { withShape { s16 with cfg := { cfg16 with maxAllocBytes := some 7 } } 2 2 2 8 8 with outReq := 8 }) =
      some 3 := by decide

/-! ### The decoder and the encoder (spec/95 section 4, spec/41 R133, R134, spec/44 R195) -/

/-- The DECODE_A vector of spec/95 section 4, at an odd address. -/
theorem test_decodeA_odd_base :
    see (fun t => (t.da, t.seq))
      (exec .decodeA { s16 with arg := ⟨0x1001, 4, 0, 0, 1, 0, 2⟩, da := [none, none],
                                mem := [(0x1001, 0x00), (0x1002, 0x3C), (0x1003, 0x01), (0x1004, 0x80)] }) =
      some ([some 0x3F800000, some 0xB3800000], .decodeB) := by decide +kernel
/-- The example of R134, its first two elements. -/
theorem test_decodeB :
    see (fun t => (t.db, t.seq))
      (exec .decodeB { s16 with arg := ⟨0, 0, 0x2000, 4, 0, 1, 2⟩, db := [none, none],
                                mem := [(0x2000, 0x00), (0x2001, 0x40), (0x2002, 0x00), (0x2003, 0x42)] }) =
      some ([some 0x40000000, some 0x40400000], .accClear) := by decide +kernel
/-- The example of R195, its first two elements. -/
theorem test_encode :
    see (fun t => (t.mem, t.seq))
      (exec .encode { withShape s16 1 2 0 0 0 with out := some ⟨0x3000, 4⟩, acc := [some 0x40000000, some 0x40400000] }) =
      some ([(0x3000, 0x00), (0x3001, 0x40), (0x3002, 0x00), (0x3003, 0x42)], .respondOk) := by decide +kernel
/-- spec/44 R195: m*n = 0 writes nothing. -/
theorem test_encode_nothing :
    see (fun t => (t.mem, t.seq)) (exec .encode { withShape s16 0 2 0 0 0 with out := some ⟨0, 0⟩ }) = some ([], .respondOk) := by decide

/-! ### The engine (spec/42 R146 to R156; the trace of GE-3 in spec/95 section 3) -/

/-- The example of R146. -/
theorem test_accClear :
    see (fun t => (t.acc, t.seq)) (exec .accClear { withShape s16 2 2 2 8 8 with acc := List.replicate 4 none }) =
      some (List.replicate 4 (some 0), .dispatch) := by decide
/-- The example of R147. -/
theorem test_dispatch :
    see (fun t => (t.rowsPending, t.rowsDone, t.seq)) (exec .dispatch { withShape s16 2 2 2 8 8 with rowsDone := [7] }) =
      some ([0, 1], [], .join) := by decide
/-- The example of R156, and a hold. -/
theorem test_join :
    see State.seq (exec .join { joinS with rowsDone := [1, 0] }) = some .encode ∧ see State.seq (exec .join joinS) = some .join := by decide
/-- R148: a claim draws once and stays in the multiply phase; with no row left an idle worker waits. -/
theorem test_rowClaim :
    see (fun t => (t.draws, t.seq)) (exec .rowClaim { workerS 9 .idle with rowsPending := [5, 6] }) = some (1, .join) ∧
    see State.wk (exec .rowClaim (workerS 9 .idle)) = some [.idle, .idle] := by decide
/-- The example of R149. -/
theorem test_elemInit : see State.wk (exec .elemInit (workerS 9 (.row 1 0 0 none))) = some [.row 1 0 0 (some 0), .idle] := by decide
/-- The example of R151: eight products of 1.0 from +0.0 give 8.0, under GROUPED and LINEAR. -/
theorem test_group8 :
    see State.wk (exec .group8 (workerS 9 (.row 0 0 0 (some 0)))) = some [.row 0 0 8 (some 0x41000000), .idle] ∧
    see State.wk (exec .group8 { workerS 9 (.row 0 0 0 (some 0)) with cfg := { cfg16 with sumOrder := .linear } }) =
      some [.row 0 0 8 (some 0x41000000), .idle] := by decide +kernel
/-- The example of R153: 8.0 and one more. -/
theorem test_mac1 :
    see State.wk (exec .mac1 (workerS 9 (.row 0 0 8 (some 0x41000000)))) = some [.row 0 0 9 (some 0x41100000), .idle] := by decide +kernel
/-- The example of R154. -/
theorem test_elemStore :
    see (fun t => (t.acc, t.wk)) (exec .elemStore (workerS 9 (.row 0 0 9 (some 0x41100000)))) =
      some ([some 0x41100000], [.row 0 1 0 none, .idle]) := by decide
/-- The example of R155. -/
theorem test_rowDone :
    see (fun t => (t.rowsDone, t.wk)) (exec .rowDone { workerS 9 (.row 1 2 0 none) with rowsDone := [0] }) =
      some ([0, 1], [.idle, .idle]) := by decide

/-! ### Responses (spec/40 R115, R116) and the Other step (FR-7) -/

/-- P1: the result posted. -/
theorem test_respondOk :
    see (fun t => (t.status, t.cBase, t.cLen, t.acc)) (exec .respondOk respondS) = some (2, 0x3000, 4, []) := by decide
/-- FR-7, P3: a failure posted, the region released. -/
theorem test_respondFail :
    see (fun t => (t.status, t.cBase, t.cLen, t.out)) (exec .respondFail { respondS with seq := .respondFail, failCode := 4 }) =
      some (0x402, 0, 0, none) := by decide
theorem test_other_step :
    (encodeS.other.seq, encodeS.other.failCode, encodeS.other.out) = (.respondFail, 4, some ⟨0x3000, 4⟩) := by decide

/-! ### The host (spec/10 R36, R38, spec/70 R243) -/

/-- A write to STATUS does nothing; an input byte is not the host's to write during a call, and is after it. -/
theorem test_host_duties :
    see State.status (hostTouch joinS (.wrStatus 0xFFFFFFFF)) = some 1 ∧
    after (hostTouch joinS (.poke 0x1000 7)) = none ∧ see State.mem (hostTouch s16 (.poke 0x1000 7)) = some [(0x1000, 7)] ∧
    after (hostTouch s16 (.poke 65536 7)) = none := by decide
/-- At DONE the result is the host's to read, its region not yet the host's to write. -/
theorem test_host_result :
    see State.rdata (hostTouch doneS (.peek 0x3001)) = some (.byte 0x48) ∧ see State.rdata (hostTouch doneS (.rd .cLen)) = some (.num 4) ∧
    after (hostTouch doneS (.poke 0x3001 7)) = none := by decide

/-- R246, the bytes of P2's result in each row: what the host observes at DONE. -/
theorem test_observe : doneS.observe = ⟨0, 0x3000, 4, [], [0x80, 0x48, 0x80, 0x48]⟩ := by decide

/-! ### Witnesses: states and operands that meet the hypotheses of the statements -/

/-- An outcome seen through `f` has a next state. -/
theorem exists_of_see {α : Type} {f : State → α} {x : α} {o : Host.Outcome State Fault Refusal} (h : see f o = some x) :
    ∃ t, o = .next t ∧ f t = x := by
  cases o with
  | next t => exact ⟨t, rfl, Option.some.inj h⟩
  | fault r => cases h
  | refused r => cases h

theorem joinS_consistent : Consistent joinS := by constructor <;> decide
theorem encodeS_consistent : Consistent encodeS := by constructor <;> decide
theorem respondS_consistent : Consistent respondS := by constructor <;> decide
theorem doneS_consistent : Consistent doneS := by constructor <;> decide

theorem joinS_engineCorrect : EngineCorrect joinS := by
  refine ⟨fun _ => by decide +kernel, ?_⟩
  intro _ i hi j hj hs
  obtain rfl : j = 0 := Nat.lt_one_iff.mp hj
  have hi : i < 2 := hi
  interval_cases i
  · exact ⟨0x41100000, rfl, by decide +kernel⟩
  · exact absurd hs (by decide)

theorem encodeS_engineCorrect : EngineCorrect encodeS := by
  refine ⟨fun h => (by cases h), ?_⟩
  intro _ i hi j hj _
  obtain rfl : j = 0 := Nat.lt_one_iff.mp hj
  have hi : i < 2 := hi
  interval_cases i <;> exact ⟨0x41100000, rfl, by decide +kernel⟩

theorem respondS_resultWritten : ResultWritten respondS := by
  intro _ r hr i hi j hj v hv
  obtain rfl : (⟨0x3000, 4⟩ : Region) = r := Option.some.inj hr
  obtain rfl : j = 0 := Nat.lt_one_iff.mp hj
  have hi : i < 2 := hi
  interval_cases i <;> (obtain rfl : (0x41100000 : Single) = v := Option.some.inj hv) <;> decide +kernel

/-- The host's command, the sequencer's micro-operation and a worker's, each next to be performed. -/
theorem witness_StepPerformsTheInstruction :
    ({ s16 with host := [.cmd 2] }.mover = some .host ∧ { s16 with host := [.cmd 2] }.host = .cmd 2 :: [] ∧ s16.faults = [] ∧
      decode (.cmd32 2) = .ok .ack) ∧
    (encodeS.mover = some .sequencer ∧ encodeS.seq.uop = some .encode) ∧
    (joinS.mover = some (.worker 0) ∧ workerStep joinS 0 = some .mac1) := by decide

theorem witness_DecodeAndEncodeAgree : decode (.uop8 0x25) = .ok .rowDone := by rfl

theorem witness_AnyReadyAgentMayMove : .worker 0 ∈ joinS.agents ∧ joinS.mover = some (.worker 0) ∧ s16.mover = none := by decide

/-- Faulted with a command waiting; faulted with nothing to do; not faulted with nothing to do. -/
theorem witness_FaultedBlockTakesNoStep :
    (let s := { joinS with faults := [.capacity], host := [.cmd 1] }
     s.faults ≠ [] ∧ s.mover = some .host ∧ s.faults = .capacity :: [] ∧ s.host = .cmd 1 :: [] ∧ decode (.cmd32 1) = .ok .multiply) ∧
    (let s := { joinS with faults := [.capacity] }
     s.faults = .capacity :: [] ∧ s.mover = none) ∧
    (s16.faults = [] ∧ s16.mover = none) := by decide

theorem witness_ReservedWordsAreRefused :
    let s := { joinS with host := [.cmd 0x80000002] }
    s.mover = some .host ∧ s.host = .cmd 0x80000002 :: [] ∧ (0x80000002 : BitVec 32) ≠ 1 ∧ (0x80000002 : BitVec 32) ≠ 2 := by decide

theorem witness_OtherStepEndsTheCall :
    { encodeS with cfg := { cfg16 with admitOther := true }, pick := 1 }.mover = some .other := by decide

/-- The widest value, written during a call; a write to STATUS, and a WAIT DONE at DONE; a byte placed beside both input buffers during a call,
in an input buffer at DONE and at the last address in IDLE; and steps that are and are not a write. -/
theorem witness_OnlyTheHostWritesOperandRegisters :
    (let s := { joinS with host := [.wr .k 65535] }
     s.mover = some .host ∧ s.host = .wr .k 65535 :: [] ∧ 65535 < 2 ^ s.cfg.sizeW) ∧
    ({ joinS with host := [.wrStatus 7] }.mover = some .host ∧ { doneS with host := [.waitDone] }.mover = some .host) ∧
    (let s := { joinS with host := [.poke 0x1024 7] }
     s.mover = some .host ∧ s.host = .poke 0x1024 7 :: [] ∧ 0x1024 < 2 ^ s.cfg.sizeW ∧ s.arg.bufferA.holds 0x1024 = false ∧
       s.arg.bufferB.holds 0x1024 = false ∧ s.out = some ⟨0x3000, 4⟩ ∧ Region.holds ⟨0x3000, 4⟩ 0x1024 = false) ∧
    (let s := { doneS with host := [.poke 0x1000 7] }
     s.mover = some .host ∧ s.seq = .done ∧ s.out = some ⟨0x3000, 4⟩ ∧ Region.holds ⟨0x3000, 4⟩ 0x1000 = false) ∧
    (let s := { s16 with host := [.poke 65535 7] }
     s.mover = some .host ∧ s.seq = .idle ∧ 65535 < 2 ^ s.cfg.sizeW ∧ s.out = none) ∧
    (∃ t, step joinS = .next t) ∧ ∃ t, step { joinS with host := [.wr .k 65535] } = .next t :=
  ⟨by decide, by decide, by decide, by decide, by decide, exists_of_after (by decide +kernel), exists_of_after (by decide)⟩

/-- Each register read, at DONE and elsewhere; a byte of the result at DONE, and, before DONE, the byte after the region and the last address. -/
theorem witness_HostReadsTheRegisters :
    (([.cmd, .status, .cBase, .cLen, .msg, .operand .aBase] : List HostReg).all
      (fun r => decide ({ doneS with host := [.rd r] }.mover = some .host)) = true ∧ doneS.seq = .done ∧
    { doneS with code := 4 }.code = 4 ∧ doneS.code ≠ 4 ∧ { joinS with host := [.rd .msg] }.mover = some .host ∧ joinS.seq ≠ .done ∧
    { doneS with regs := regsP1 }.regs.get .aBase = some 0x1000) ∧
    ({ doneS with host := [.peek 0x3003] }.mover = some .host ∧ Region.holds ⟨0x3000, 4⟩ 0x3003 = true) ∧
    (let s := { respondS with host := [.peek 0x3004, .peek 65535] }
     s.mover = some .host ∧ s.out = some ⟨0x3000, 4⟩ ∧ Region.holds ⟨0x3000, 4⟩ 0x3004 = false ∧
       Region.holds ⟨0x3000, 4⟩ 65535 = false ∧ 65535 < 2 ^ s.cfg.sizeW) := by decide

theorem witness_ResetIsConsistent : cfg16.wf := by decide

theorem witness_StepKeepsConsistent :
    (Consistent joinS ∧ ∃ t, step joinS = .next t) ∧ (Consistent respondS ∧ ∃ t, step respondS = .next t) :=
  ⟨⟨joinS_consistent, exists_of_after (by decide +kernel)⟩, respondS_consistent, exists_of_after (by decide)⟩

/-- P1's MULTIPLY from reset, and a final state. -/
theorem witness_AckRestoresCleanEntry :
    (let s := { s16 with regs := regsP1 }
     Consistent s ∧ s.seq = .idle ∧ ∃ t, exec .multiply s = .next t ∧ t.seq = .validateA) ∧
    Consistent doneS ∧ doneS.final :=
  ⟨⟨by constructor <;> decide, by decide, exists_of_see (f := State.seq) (by decide)⟩, doneS_consistent, by decide⟩

theorem witness_MarksAreSticky :
    ∃ t, step { s16 with faults := [.capacity], refusals := [.range], host := [.rd .status] } = .next t :=
  exists_of_after (by decide)

theorem witness_RegistersDoNotReachTheRunningCall : Instr.ack ≠ .multiply := by decide

theorem witness_OtherNeedsAdmission :
    joinS.cfg.admitOther = false ∧ (joinS.code ≠ 4 ∧ joinS.failCode ≠ 4) ∧ ∃ t, step joinS = .next t :=
  ⟨by decide, by decide, exists_of_after (by decide +kernel)⟩

/-- Each failure, raised by its micro-operation. -/
theorem witness_FailuresComeFromTheirMicroOperations :
    (∃ t, exec .validateA (withShape s16 2 2 2 6 8) = .next t ∧ t.seq = .respondFail) ∧
    (∃ t, exec .validateB (withShape s16 2 2 2 8 6) = .next t ∧ t.seq = .respondFail) ∧
    (∃ t, exec .sizeOut (withShape s16 1 32768 0 0 0) = .next t ∧ t.seq = .respondFail) ∧
    (∃ t, exec .alloc { withShape { s16 with cfg := { cfg16 with maxAllocBytes := some 7 } } 2 2 2 8 8 with outReq := 8 } = .next t ∧
      t.seq = .respondFail) ∧ s16.seq ≠ .respondFail :=
  ⟨exists_of_see (f := State.seq) (by decide), exists_of_see (f := State.seq) (by decide), exists_of_see (f := State.seq) (by decide),
    exists_of_see (f := State.seq) (by decide), by decide⟩

/-- A buffer that ends at the last byte of the address space. -/
theorem witness_MultiplyStartsTheCall :
    let s := { s16 with regs := ⟨some 65528, some 8, some 0, some 65535, some 2, some 2, some 2⟩ }
    s.seq = .idle ∧ s.faults = [] ∧ s.refusals = [] ∧ s.regs = ⟨some 65528, some 8, some 0, some 65535, some 2, some 2, some 2⟩ ∧
    65528 + 8 ≤ 2 ^ s.cfg.sizeW ∧ 0 + 65535 ≤ 2 ^ s.cfg.sizeW := by decide

/-- A call running; one register unwritten; one byte too far, for each buffer; each kind of mark. -/
theorem witness_MultiplyIsTurnedAway :
    joinS.seq ≠ .idle ∧ (s16.seq = .idle ∧ { regsP1 with k := none }.get .k = none) ∧
    (2 ^ s16.cfg.sizeW < 65528 + 9 ∧ 2 ^ s16.cfg.sizeW < 2 + 65535) ∧
    (let s := { s16 with regs := regsP1, refusals := [.range] }
     s.seq = .idle ∧ s.refusals ≠ [] ∧ s.regs = ⟨some 0x1000, some 8, some 0x2000, some 8, some 2, some 2, some 2⟩ ∧
       0x1000 + 8 ≤ 2 ^ s.cfg.sizeW ∧ 0x2000 + 8 ≤ 2 ^ s.cfg.sizeW) ∧
    { s16 with faults := [.unsetRead] }.faults ≠ [] := by decide

theorem witness_AckEndsTheCall : doneS.seq = .done ∧ joinS.seq ≠ .done := by decide

/-- The longest buffer that can match in 16 bits, and an empty one. -/
theorem witness_MatchingLengthsPass :
    (let s := withShape s16 1 0 32767 65534 0
     (s.arg.aLen = 2 * s.arg.m * s.arg.k ∧ s.arg.aLen ≤ s.cfg.sizeMax) ∧ s.arg.bLen = 2 * s.arg.k * s.arg.n ∧ s.arg.bLen ≤ s.cfg.sizeMax) ∧
    (let s := withShape s16 0 1 32767 0 65534
     (s.arg.aLen = 2 * s.arg.m * s.arg.k ∧ s.arg.aLen ≤ s.cfg.sizeMax) ∧ s.arg.bLen = 2 * s.arg.k * s.arg.n ∧ s.arg.bLen ≤ s.cfg.sizeMax) := by
  decide

/-- A wrong length, an overflowing one, and the case of SAT_MATCH, for each buffer. -/
theorem witness_OtherLengthsFail :
    (let s := withShape s16 2 2 2 9 7
     s.arg.aLen ≠ 2 * s.arg.m * s.arg.k ∧ s.arg.bLen ≠ 2 * s.arg.k * s.arg.n) ∧
    (let s := withShape { s16 with cfg := { cfg16 with satReading := .maximal } } 1 1 32768 65535 65535
     s.cfg.sizeMax < 2 * s.arg.m * s.arg.k ∧ s.cfg.sizeMax < 2 * s.arg.k * s.arg.n ∧ s.cfg.satReading = .maximal ∧
       s.arg.aLen = s.cfg.sizeMax ∧ s.arg.bLen = s.cfg.sizeMax) := by decide

/-- 65534 bytes, the most that 16 bits hold of an even count; 65536, the least they do not. -/
theorem witness_SizeOutComputesOrOverflows :
    (let s := withShape s16 1 32767 0 0 0
     2 * s.arg.m * s.arg.n ≤ s.cfg.sizeMax) ∧
    (let s := withShape s16 1 32768 0 0 0
     s.cfg.sizeMax < 2 * s.arg.m * s.arg.n) := by decide

theorem witness_AllocOfNothingSucceeds : (withShape s16 0 3 5 0 30).overCapacity = false ∧ (withShape s16 0 3 5 0 30).outReq = 0 := by decide

theorem witness_AllocGrantsOrFails :
    let s := { withShape s16 2 2 2 8 8 with outReq := 8 }
    s.overCapacity = false ∧ s.outReq ≠ 0 := by decide

/-- Each capacity one short, and a request one byte over MAX_ALLOC_BYTES. -/
theorem witness_AllocLimits :
    (let s := withShape { s16 with cfg := { cfg16 with daCap := some 3 } } 2 2 2 8 8
     s.cfg.daCap = some 3 ∧ 3 < s.arg.m * s.arg.k) ∧
    (let s := withShape { s16 with cfg := { cfg16 with dbCap := some 3 } } 2 2 2 8 8
     s.cfg.dbCap = some 3 ∧ 3 < s.arg.k * s.arg.n) ∧
    (let s := withShape { s16 with cfg := { cfg16 with accCap := some 3 } } 2 2 2 8 8
     s.cfg.accCap = some 3 ∧ 3 < s.arg.m * s.arg.n) ∧
    (let s := { withShape { s16 with cfg := { cfg16 with maxAllocBytes := some 7 } } 2 2 2 8 8 with outReq := 8 }
     s.overCapacity = false ∧ s.outReq ≠ 0 ∧ s.cfg.maxAllocBytes = some 7 ∧ 7 < s.outReq) := by decide

/-- Buffers that end at the last byte of the address space, one of them with an odd byte after its last element. -/
theorem witness_DecodeFillsItsStore :
    (let s := { s16 with arg := ⟨65527, 9, 0, 0, 2, 0, 2⟩, da := List.replicate 4 none }
     s.arg.aBase + 2 * (s.arg.aLen / 2) ≤ 2 ^ s.cfg.sizeW) ∧
    (let s := { s16 with arg := ⟨0, 0, 65528, 8, 0, 2, 2⟩, db := List.replicate 4 none }
     s.arg.bBase + 2 * (s.arg.bLen / 2) ≤ 2 ^ s.cfg.sizeW) := by decide

/-- A subnormal, an infinity and a NaN. -/
theorem witness_conversions :
    Half.isNan 0x0001 = false ∧ Half.isFinite 0x0001 = true ∧ Half.isNan 0x7C00 = false ∧ Half.isNan 0x7C01 = true ∧
    Single.isNan 0x7F800001 = true := by decide +kernel

/-- A third on the finest grid, and the first magnitude that becomes infinity. -/
theorem witness_RoundingIsToNearestEven :
    (1 < 2 ∧ 0 < 3 ∧ 149 ≤ 150 ∧ 3 < (2 ^ 128 - 2 ^ 103) * 2 ^ 150 ∧ Single.isFinite 0x00000001 = true) ∧
    (0 < 2 ∧ 0 < (2 ^ 128 - 2 ^ 103) * 2 ^ 149 ∧ (2 ^ 128 - 2 ^ 103) * 2 ^ 149 ≤ (2 ^ 128 - 2 ^ 103) * 2 ^ 149) := by decide +kernel

/-- A NaN; infinities of unlike and of like sign; an infinity and a finite value; sums of each sign and zero. -/
theorem witness_AdditionFollowsItsRule :
    Single.isNan 0x7FC00000 = true ∧
    (Single.isInf 0x7F800000 = true ∧ Single.isInf 0xFF800000 = true ∧ Single.sign 0x7F800000 ≠ Single.sign 0xFF800000) ∧
    (Single.isNan 0x3F800000 = false ∧ Single.isInf 0x3F800000 = false) ∧
    (Single.isFinite 0x3F800000 = true ∧ Single.isFinite 0xBF800000 = true ∧ Single.val 0x3F800000 + Single.val 0xBF800000 = 0 ∧
      0 < Single.val 0x3F800000 + Single.val 0x3F800000 ∧ Single.val 0xBF800000 + Single.val 0xBF800000 < 0) := by decide +kernel

/-- A NaN; an infinity and a zero; an infinity and a value that is neither NaN nor zero; two finite values. -/
theorem witness_MultiplicationFollowsItsRule :
    Single.isNan 0x7FC00000 = true ∧ (Single.isInf 0x7F800000 = true ∧ Single.isZero 0x80000000 = true) ∧
    (Single.isNan 0xBF800000 = false ∧ Single.isZero 0xBF800000 = false) ∧
    (Single.isFinite 0x00000001 = true ∧ Single.isFinite 0x7F7FFFFF = true) := by decide +kernel

theorem witness_ProductsOfHalvesAreExact : Half.isFinite 0xFBFF = true ∧ Half.isFinite 0x0001 = true := by decide +kernel

/-- 65520, the first magnitude that becomes infinity, and the one below it. -/
theorem witness_NarrowingIsToNearestEven :
    (Single.isFinite 0x477FF000 = true ∧ 65520 * 2 ^ 149 ≤ Single.mag 0x477FF000) ∧
    (Single.isFinite 0x477FEFFF = true ∧ Single.mag 0x477FEFFF < 65520 * 2 ^ 149 ∧ Half.isFinite 0x7BFF = true) := by decide +kernel

theorem witness_AccClearZeroesEveryCell :
    let s := { withShape s16 2 2 2 8 8 with acc := List.replicate 4 none }
    s.acc.length = s.arg.m * s.arg.n := by decide

/-- Every row done, in another order, and one row missing. -/
theorem witness_JoinHoldsUntilEveryRowIsDone :
    (∀ i, i ∈ [1, 0] ↔ i < (withShape s16 2 1 9 36 18).arg.m) ∧ ¬(∀ i, i ∈ joinS.rowsDone ↔ i < joinS.arg.m) := by
  refine ⟨fun i => ?_, fun h => absurd ((h 1).mpr (by decide)) (by decide)⟩
  simp only [List.mem_cons, List.not_mem_nil, or_false, withShape]
  omega

theorem witness_RowClaimTakesAPendingRow :
    (let s := { workerS 9 .idle with rowsPending := [5, 6] }
     s.worker = some .idle ∧ s.seq = .join ∧ s.rowsPending ≠ []) ∧
    ((workerS 9 .idle).worker = some .idle ∧ (workerS 9 .idle).rowsPending = []) ∧
    (s16.worker = some .idle ∧ s16.seq ≠ .join) := by decide

theorem witness_ElemInitStartsTheSum :
    (workerS 9 (.row 0 0 0 none)).worker = some (.row 0 0 0 none) ∧ 0 < (workerS 9 (.row 0 0 0 none)).arg.n := by decide

theorem witness_Group8AccumulatesEightProducts :
    let s := workerS 8 (.row 0 0 0 (some 0))
    s.worker = some (.row 0 0 0 (some 0)) ∧ 0 + 8 ≤ s.arg.k ∧
    ∀ q < 8, cellAt s.da (0 * s.arg.k + (0 + q)) = some one ∧ cellAt s.db ((0 + q) * s.arg.n + 0) = some one := by decide

/-- The last index of a remainder of one. -/
theorem witness_Mac1AccumulatesOneProduct :
    joinS.worker = some (.row 1 0 8 (some 0x41000000)) ∧ 8 < joinS.arg.k ∧ joinS.arg.k < 8 + 8 ∧
    cellAt joinS.da (1 * joinS.arg.k + 8) = some one ∧ cellAt joinS.db (8 * joinS.arg.n + 0) = some one := by decide

theorem witness_ElemStoreWritesItsCell :
    let s := workerS 9 (.row 0 0 9 (some 0x41100000))
    s.worker = some (.row 0 0 9 (some 0x41100000)) ∧ s.arg.k ≤ 9 ∧ 0 * s.arg.n + 0 < s.acc.length := by decide

theorem witness_RowDoneAddsTheRow :
    let s := workerS 9 (.row 0 1 0 none)
    s.worker = some (.row 0 1 0 none) ∧ s.arg.n ≤ 1 ∧ s.rowsDone.Nodup := by decide

/-- Another operand form; no idle worker; an unset cell under GROUP8, MAC1 and ENCODE; no region. -/
theorem witness_WhereAnOperandIsMissing :
    workerStep joinS joinS.cur ≠ some .group8 ∧ joinS.worker ≠ some .idle ∧
    (let s := { workerS 8 (.row 0 0 0 (some 0)) with da := List.replicate 7 (some one) ++ [none] }
     s.worker = some (.row 0 0 0 (some 0)) ∧ 0 + 8 ≤ s.arg.k ∧ cellAt s.da (0 * s.arg.k + (0 + 7)) = none) ∧
    (let s := { workerS 1 (.row 0 0 0 (some 0)) with db := [none] }
     s.worker = some (.row 0 0 0 (some 0)) ∧ 0 < s.arg.k ∧ s.arg.k < 0 + 8 ∧ cellAt s.db (0 * s.arg.n + 0) = none) ∧
    (let s := { encodeS with acc := [some one, none] }
     s.out = some ⟨0x3000, 4⟩ ∧ 1 < s.arg.m * s.arg.n ∧ cellAt s.acc 1 = none) ∧ s16.out = none := by decide

/-- A region that ends at the last byte of the address space. -/
theorem witness_EncodeWritesTheResult :
    let s := { encodeS with out := some ⟨65532, 4⟩ }
    s.out = some ⟨65532, 4⟩ ∧ 65532 + 2 * (s.arg.m * s.arg.n) ≤ 2 ^ s.cfg.sizeW ∧ ∀ e < s.arg.m * s.arg.n, cellAt s.acc e ≠ none := by
  decide

theorem witness_RespondPostsTheAnswer : respondS.out = some ⟨0x3000, 4⟩ ∧ s16.out = none := by decide

/-- The byte after the result region; the last byte of each input buffer; an instruction that leaves memory alone. -/
theorem witness_MemoryIsConfined :
    (Consistent encodeS ∧ encodeS.mover ≠ some .host ∧ ∃ t, step encodeS = .next t ∧
      ∀ r, encodeS.out = some r ∨ t.out = some r → r.holds 0x3004 = false) ∧
    (Consistent joinS ∧ joinS.busy = true ∧ (∃ t, step joinS = .next t) ∧ joinS.arg.bufferA.holds 0x1023 = true ∧
      joinS.arg.bufferB.holds 0x2011 = true) ∧
    ∃ t, exec .join joinS = .next t := by
  refine ⟨⟨encodeS_consistent, by decide, ?_⟩,
    ⟨joinS_consistent, by decide, exists_of_after (by decide +kernel), by decide, by decide⟩, exists_of_after (by decide)⟩
  obtain ⟨t, ht, ho⟩ := exists_of_see (f := State.out) (x := some ⟨0x3000, 4⟩) (o := step encodeS) (by decide +kernel)
  refine ⟨t, ht, ?_⟩
  rintro r (h | h)
  · obtain rfl : (⟨0x3000, 4⟩ : Region) = r := Option.some.inj h
    decide
  · obtain rfl : (⟨0x3000, 4⟩ : Region) = r := Option.some.inj (ho.symm.trans h)
    decide

/-- The call of joinS under FREE, no sum begun and nothing stored. -/
def freeS : State :=
  { joinS with
    cfg := { cfg16 with sumOrder := .free }, acc := [some 0, some 0], rowsDone := [], rowsPending := [1], wk := [.row 0 0 0 none, .idle] }

theorem freeS_productsNotNan : ProductsNotNan freeS :=
  productsNotNan_of_finite (fun v h => by obtain rfl : v = one := Option.some.inj (List.eq_of_mem_replicate h); decide +kernel)
    (fun v h => by obtain rfl : v = one := Option.some.inj (List.eq_of_mem_replicate h); decide +kernel)

theorem freeS_engineCorrect : EngineCorrect freeS := by
  refine ⟨fun _ => by decide, ?_⟩
  intro _ i hi j hj hs
  obtain rfl : j = 0 := Nat.lt_one_iff.mp hj
  have hi : i < 2 := hi
  interval_cases i <;> exact absurd hs (by decide)

/-- GROUPED with a row done; FREE with finite cells; the stores filled; every row done. -/
theorem witness_StepKeepsEngineCorrect :
    (Consistent joinS ∧ joinS.cfg.sumOrder ≠ .free ∧ EngineCorrect joinS ∧ ∃ t, step joinS = .next t) ∧
    (Consistent freeS ∧ (freeS.cfg.sumOrder = .free → ProductsNotNan freeS) ∧ EngineCorrect freeS ∧ ∃ t, step freeS = .next t) ∧
    (joinS.seq = .join ∧ encodeS.seq = .encode ∧ ∃ t, step encodeS = .next t) ∧
    (Consistent encodeS ∧ EngineCorrect encodeS ∧ encodeS.seq = .encode ∧ 1 < encodeS.arg.m ∧ 0 < encodeS.arg.n) :=
  ⟨⟨joinS_consistent, by decide, joinS_engineCorrect, exists_of_after (by decide +kernel)⟩,
    ⟨by constructor <;> decide, fun _ => freeS_productsNotNan, freeS_engineCorrect, exists_of_after (by decide +kernel)⟩,
    ⟨by decide, by decide, exists_of_after (by decide +kernel)⟩,
    encodeS_consistent, encodeS_engineCorrect, by decide, by decide, by decide⟩

/-- A result about to be posted, its last element, and a posted one the host reads. -/
theorem witness_StepKeepsResultWritten :
    (Consistent respondS ∧ ResultWritten respondS ∧ ∃ t, step respondS = .next t) ∧
    (respondS.seq = .respondOk ∧ 1 < respondS.arg.m ∧ 0 < respondS.arg.n ∧ cellAt respondS.acc (1 * respondS.arg.n + 0) = some 0x41100000) ∧
    (let s := { doneS with host := [.peek 0x3003] }
     Consistent s ∧ s.seq = .done ∧ ∃ t, step s = .next t ∧ t.seq = .done) :=
  ⟨⟨respondS_consistent, respondS_resultWritten, exists_of_after (by decide)⟩, by decide,
    by constructor <;> decide, by decide, exists_of_see (f := State.seq) (by decide)⟩

theorem witness_WorkerStepsCountDown :
    (workerStep joinS joinS.cur = some .mac1 ∧ joinS.faults = [] ∧ ∃ t, exec .mac1 joinS = .next t ∧ t.faults = []) ∧
    ((∀ x ∈ encodeS.wk, x = .idle) ∧ ∃ t, exec .dispatch encodeS = .next t) :=
  ⟨⟨by decide, by decide, exists_of_see (f := State.faults) (by decide +kernel)⟩, by decide, exists_of_after (by decide)⟩

theorem witness_RunningCallIsNeverStuck : Consistent joinS ∧ joinS.busy = true ∧ joinS.faults = [] :=
  ⟨joinS_consistent, by decide, by decide⟩

theorem witness_CallsComeToAnEnd : Consistent joinS ∧ joinS.mover ≠ some .host ∧ joinS.mover ≠ none ∧ ∃ t, step joinS = .next t :=
  ⟨joinS_consistent, by decide, by decide, exists_of_after (by decide +kernel)⟩

/-- A stop of each kind: a recorded fault, an address that does not exist, a duty broken. -/
theorem witness_OnlyFaultsAndTheHostStopTheMachine :
    (Consistent { joinS with faults := [.capacity] } ∧ step { joinS with faults := [.capacity] } = .fault (.halted .capacity)) ∧
    (Consistent { joinS with host := [.poke 65536 0] } ∧ step { joinS with host := [.poke 65536 0] } = .fault .noSuchAddress) ∧
    (Consistent { joinS with host := [.poke 0x1000 0] } ∧ step { joinS with host := [.poke 0x1000 0] } = .refused .hostDuty) :=
  ⟨⟨by constructor <;> decide, rfl⟩, ⟨by constructor <;> decide, rfl⟩, ⟨by constructor <;> decide, rfl⟩⟩

end Sys2Proof.Tests
end

section
/-! PROOFS. Rules that several of the proofs below use: what a command word and an agent's next instruction can be, and everything an
interaction of the host other than a command can do. -/

namespace Sys2Proof

/-- The micro-operations of a worker are those of UNIT 2 (spec/30 R90). -/
def Instr.ofWorker : Instr → Bool
  | .rowClaim | .elemInit | .group8 | .mac1 | .elemStore | .rowDone => true
  | _ => false

end Sys2Proof

namespace Sys2Proof.Machine

variable {s t : State} {i : Instr}

/-- The only command words that decode are MULTIPLY and ACK (spec/30 R87, R88). -/
theorem decode_cmd32_ok {w : BitVec 32} (h : decode (.cmd32 w) = .ok i) : i = .multiply ∨ i = .ack := by
  simp only [decode, decodeCmd] at h
  split at h
  · cases h
  · split at h
    · cases h; exact .inl rfl
    · split at h <;> cases h
      exact .inr rfl

theorem rowUop_ofWorker (g : Arg) (j p : Nat) (v : Option Single) : (rowUop g j p v).ofWorker = true := by
  unfold rowUop
  split
  · split <;> rfl
  · split
    · rfl
    · split <;> rfl

theorem workerStep_ofWorker {w : Nat} (h : workerStep s w = some i) : i.ofWorker = true := by
  unfold workerStep at h
  split at h
  · cases h
  · split at h <;> cases h
    rfl
  · cases h
    exact rowUop_ofWorker _ _ _ _

/-- SEQ names a micro-operation everywhere but in IDLE and DONE (spec/10 R41). -/
theorem Seq.uop_isSome_iff {x : Seq} : x.uop.isSome = true ↔ x ≠ .idle ∧ x ≠ .done := by
  cases x <;> simp [Seq.uop]

/-- Everything an interaction of the host other than a command can do. -/
theorem hostTouch_next {act : HostAction} (h : hostTouch s act = .next t) :
    (∃ r v, act = .wr r v ∧ v ≤ s.cfg.sizeMax ∧ t = { s with regs := s.regs.set r v }) ∨
    (∃ d, t = { s with rdata := d }.drawn) ∨
    (∃ a b, act = .poke a b ∧ a < s.cfg.addrSpace ∧ s.protects a = false ∧ t = { s with mem := Memory.write a b s.mem }) ∨
    (∃ r, act = .free r ∧ s.out ≠ some r ∧ t = { s with live := s.live.erase r }) ∨
    t = s := by
  cases act with
  | wr r v =>
    simp only [hostTouch] at h
    split at h <;> cases h
    exact .inl ⟨r, v, rfl, ‹_›, rfl⟩
  | rd r =>
    cases h
    exact .inr (.inl ⟨_, rfl⟩)
  | poke a b =>
    simp only [hostTouch] at h
    split at h
    · cases h
    · split at h <;> cases h
      exact .inr (.inr (.inl ⟨a, b, rfl, by omega, by simp_all, rfl⟩))
  | peek a =>
    simp only [hostTouch] at h
    split at h <;> cases h
    exact .inr (.inl ⟨_, rfl⟩)
  | free r =>
    simp only [hostTouch] at h
    split at h <;> cases h
    rename_i hr
    exact .inr (.inr (.inr (.inl ⟨r, rfl, hr.2, rfl⟩)))
  | wrStatus v => cases h; exact .inr (.inr (.inr (.inr rfl)))
  | waitDone => cases h; exact .inr (.inr (.inr (.inr rfl)))
  | cmd w => cases h; exact .inr (.inr (.inr (.inr rfl)))

end Sys2Proof.Machine
end

section
/-! PROOFS. The invariant `Consistent`, read phase by phase: what it says in each phase of a call, and what a state of that
phase has to meet. -/

namespace Sys2Proof.Machine

variable {s t : State}

/-! ### What holds in every phase -/

/-- The part of `Consistent` that does not depend on SEQ. -/
structure Always (s : State) : Prop where
  cfgOk : s.cfg.wf
  memOk : Memory.wf s.mem = true ∧ ∀ c ∈ s.mem, c.1 < s.cfg.addrSpace
  regsOk : ∀ r ∈ [s.regs.aBase, s.regs.aLen, s.regs.bBase, s.regs.bLen, s.regs.m, s.regs.n, s.regs.k], fits s.cfg r = true
  argFits : ∀ v ∈ [s.arg.aBase, s.arg.aLen, s.arg.bBase, s.arg.bLen, s.arg.m, s.arg.n, s.arg.k], v ≤ s.cfg.sizeMax
  argRange : s.arg.bufferA.inRange s.cfg = true ∧ s.arg.bufferB.inRange s.cfg = true
  marksOk : s.faults.Nodup ∧ s.refusals.Nodup
  codeLe : s.code.toNat ≤ 4
  failCodeLe : s.failCode.toNat ≤ 4
  regionFree : s.regionClear = true
  workersOk : s.wk.length = s.cfg.workers

theorem Consistent.always (h : Consistent s) : Always s :=
  { h with codeLe := h.codesOk.1, failCodeLe := h.codesOk.2.1 }

/-! ### Before ALLOC -/

/-- IDLE, or a micro-operation up to ALLOC: no region and no store is held. -/
abbrev Early (x : Seq) : Prop := x.allocated = false ∧ x ≠ .respondFail ∧ x ≠ .done

theorem ne_of_not_allocated {x : Seq} (h : x.allocated = false) : x ≠ .join ∧ x ≠ .encode ∧ x ≠ .respondOk := by
  cases x <;> revert h <;> decide

theorem not_filled_of_not_allocated {x : Seq} (h : x.allocated = false) :
    x.decodedA = false ∧ x.decodedB = false ∧ x.cleared = false := by
  cases x <;> revert h <;> decide

/-- Nothing of a call is there but its arguments. -/
structure Unheld (s : State) : Prop where
  code : s.code = 0
  msg : s.msg = []
  out : s.out = none
  stores : s.da = [] ∧ s.db = [] ∧ s.acc = []
  idle : ∀ x ∈ s.wk, x = .idle
  pending : s.rowsPending = []
  rowsDone : s.rowsDone = []

theorem Consistent.msg_eq_nil (h : Consistent s) (hf : s.seq ≠ .respondFail) (hd : s.seq ≠ .done) : s.msg = [] := by
  obtain hm | ⟨hq, -⟩ | ⟨hq, -⟩ := h.msgOk
  · exact hm
  · exact absurd hq hf
  · exact absurd hq hd

theorem Consistent.code_eq_zero (h : Consistent s) (hd : s.seq ≠ .done) : s.code = 0 := h.codesOk.2.2.1 hd

theorem Consistent.unheld (h : Consistent s) (hq : Early s.seq) : Unheld s := by
  obtain ⟨ha, hf, hd⟩ := hq
  obtain ⟨hj, he, hr⟩ := ne_of_not_allocated ha
  exact { code := h.code_eq_zero hd, msg := h.msg_eq_nil hf hd, out := h.noRegion ha hf hd, stores := h.noStores ha hf,
          idle := h.idleOutside hj hf, pending := h.poolOutside hj hf, rowsDone := h.poolBefore hj he hr hf hd }

/-- A state before ALLOC that holds nothing, with the lengths the checks so far have established, is consistent. -/
theorem Consistent.ofEarly (ha : Always s) (hq : Early s.seq) (hu : Unheld s)
    (lenA : s.seq.checkedA s.cfg.checkOrder = true → s.arg.aLen = 2 * (s.arg.m * s.arg.k))
    (lenB : s.seq.checkedB s.cfg.checkOrder = true → s.arg.bLen = 2 * (s.arg.k * s.arg.n))
    (lenC : s.seq.sized s.cfg.checkOrder = true → s.outReq = 2 * (s.arg.m * s.arg.n) ∧ s.outReq ≤ s.cfg.sizeMax) : Consistent s := by
  obtain ⟨hal, hf, hd⟩ := hq
  obtain ⟨hj, he, hr⟩ := ne_of_not_allocated hal
  obtain ⟨hA, hB, hC⟩ := not_filled_of_not_allocated hal
  exact
    { ha, hu with
      codesOk := ⟨ha.codeLe, ha.failCodeLe, fun _ => hu.code, fun h => absurd h hf⟩
      msgOk := .inl hu.msg
      lenA, lenB, lenC
      regionAt := by simp [hal]
      noRegion := fun _ _ _ => hu.out
      answerAt := fun h => absurd h hd
      storesAt := by simp [hal]
      noStores := fun _ _ => hu.stores
      daSet := by simp [hA]
      dbSet := by simp [hB]
      accSet := by simp [hC]
      idleOutside := fun _ _ => hu.idle
      inRangeAt := fun h => absurd h hj
      poolAt := fun h => absurd h hj
      poolAfter := fun h => (h.elim he hr).elim
      poolOutside := fun _ _ => hu.pending
      poolBefore := fun _ _ _ _ _ => hu.rowsDone }

/-! ### From ALLOC to the answer -/

/-- What a call holds once ALLOC has run: the lengths, its region and stores of its sizes. -/
structure Held (s : State) : Prop where
  code : s.code = 0
  msg : s.msg = []
  aLen : s.arg.aLen = 2 * (s.arg.m * s.arg.k)
  bLen : s.arg.bLen = 2 * (s.arg.k * s.arg.n)
  outReq : s.outReq = 2 * (s.arg.m * s.arg.n) ∧ s.outReq ≤ s.cfg.sizeMax
  region : s.regionOk = true
  stores : s.da.length = s.arg.m * s.arg.k ∧ s.db.length = s.arg.k * s.arg.n ∧ s.acc.length = s.arg.m * s.arg.n

/-- No cell is unset in the stores the call has filled so far. -/
structure Filled (s : State) : Prop where
  daSet : s.seq.decodedA = true → s.da.all Option.isSome = true
  dbSet : s.seq.decodedB = true → s.db.all Option.isSome = true
  accSet : s.seq.cleared = true → s.acc.all Option.isSome = true

/-- What `Consistent` says of the workers and the row pool. -/
structure Pool (s : State) : Prop where
  idleOutside : s.seq ≠ .join → s.seq ≠ .respondFail → ∀ x ∈ s.wk, x = .idle
  inRangeAt : s.seq = .join → ∀ x ∈ s.wk, x.inRange s.arg = true
  poolAt : s.seq = .join → (s.rowsPending ++ s.wk.filterMap Worker.owned ++ s.rowsDone).Perm (List.range s.arg.m)
  poolAfter : s.seq = .encode ∨ s.seq = .respondOk → s.rowsPending = [] ∧ s.rowsDone.Perm (List.range s.arg.m)
  poolOutside : s.seq ≠ .join → s.seq ≠ .respondFail → s.rowsPending = []
  poolBefore : s.seq ≠ .join → s.seq ≠ .encode → s.seq ≠ .respondOk → s.seq ≠ .respondFail → s.seq ≠ .done → s.rowsDone = []

theorem Consistent.filled (h : Consistent s) : Filled s := { h with }

theorem ne_of_allocated {x : Seq} (h : x.allocated = true) : x ≠ .respondFail ∧ x ≠ .done := by
  cases x <;> revert h <;> decide

theorem Consistent.held (h : Consistent s) (hq : s.seq.allocated = true) : Held s := by
  obtain ⟨hf, hd⟩ := ne_of_allocated hq
  exact { code := h.code_eq_zero hd, msg := h.msg_eq_nil hf hd, aLen := h.lenA (by simp [Seq.checkedA, hq]),
          bLen := h.lenB (by simp [Seq.checkedB, hq]), outReq := h.lenC (by simp [Seq.sized, hq]), region := h.regionAt hq,
          stores := h.storesAt hq }

/-- A state after ALLOC that holds what a call holds, with its stores filled as far as SEQ says and its pool in order, is consistent. -/
theorem Consistent.ofHeld (ha : Always s) (hq : s.seq.allocated = true) (hh : Held s) (hc : Filled s) (hp : Pool s) : Consistent s := by
  obtain ⟨hf, hd⟩ := ne_of_allocated hq
  exact
    { ha, hc, hp with
      codesOk := ⟨ha.codeLe, ha.failCodeLe, fun _ => hh.code, fun h => absurd h hf⟩
      msgOk := .inl hh.msg
      lenA := fun _ => hh.aLen
      lenB := fun _ => hh.bLen
      lenC := fun _ => hh.outReq
      regionAt := fun _ => hh.region
      noRegion := by simp [hq]
      answerAt := fun h => absurd h hd
      storesAt := fun _ => hh.stores
      noStores := by simp [hq] }

/-- Between ALLOC and DISPATCH the workers are idle and the pool is empty. -/
theorem Pool.empty (hj : s.seq ≠ .join) (he : s.seq ≠ .encode) (hr : s.seq ≠ .respondOk) (hi : ∀ x ∈ s.wk, x = .idle)
    (hp : s.rowsPending = []) (hd : s.rowsDone = []) : Pool s where
  idleOutside _ _ := hi
  inRangeAt h := absurd h hj
  poolAt h := absurd h hj
  poolAfter h := (h.elim he hr).elim
  poolOutside _ _ := hp
  poolBefore _ _ _ _ _ := hd

/-- Past JOIN the workers are idle and every row is done. -/
theorem Pool.allDone (hq : s.seq = .encode ∨ s.seq = .respondOk) (hi : ∀ x ∈ s.wk, x = .idle) (hp : s.rowsPending = [])
    (hd : s.rowsDone.Perm (List.range s.arg.m)) : Pool s where
  idleOutside _ _ := hi
  inRangeAt h := by simp [h] at hq
  poolAt h := by simp [h] at hq
  poolAfter _ := ⟨hp, hd⟩
  poolOutside _ _ := hp
  poolBefore _ he hr _ _ := (hq.elim he hr).elim

/-- At JOIN every row is pending, owned by one worker in range, or done. -/
theorem Pool.sharedOut (hj : s.seq = .join) (hi : ∀ x ∈ s.wk, x.inRange s.arg = true)
    (hp : (s.rowsPending ++ s.wk.filterMap Worker.owned ++ s.rowsDone).Perm (List.range s.arg.m)) : Pool s where
  idleOutside h := absurd hj h
  inRangeAt _ := hi
  poolAt _ := hp
  poolAfter h := by simp [hj] at h
  poolOutside h := absurd hj h
  poolBefore h := absurd hj h

/-! ### The end of a call -/

/-- While a failure waits to be posted, the code to post is all that counts. -/
theorem Consistent.ofRespondFail (ha : Always s) (hq : s.seq = .respondFail) (hc : s.code = 0) (hf : s.failCode ≠ 0)
    (hm : s.msg = [] ∨ s.failCode = codeOther) : Consistent s :=
  { ha with
    codesOk := ⟨ha.codeLe, ha.failCodeLe, fun _ => hc, fun _ => hf⟩
    msgOk := hm.imp_right fun h => .inl ⟨hq, h⟩
    lenA := by simp [hq, Seq.checkedA, Seq.allocated]
    lenB := by simp [hq, Seq.checkedB, Seq.allocated]
    lenC := by simp [hq, Seq.sized, Seq.allocated]
    regionAt := by simp [hq, Seq.allocated]
    noRegion := fun _ h => absurd hq h
    answerAt := by simp [hq]
    storesAt := by simp [hq, Seq.allocated]
    noStores := fun _ h => absurd hq h
    daSet := by simp [hq, Seq.decodedA]
    dbSet := by simp [hq, Seq.decodedB]
    accSet := by simp [hq, Seq.cleared]
    idleOutside := fun _ h => absurd hq h
    inRangeAt := by simp [hq]
    poolAt := by simp [hq]
    poolAfter := by simp [hq]
    poolOutside := fun _ h => absurd hq h
    poolBefore := fun _ _ _ h => absurd hq h }

/-- At DONE the answer stands, and the stores and the workers are given up. -/
theorem Consistent.ofDone (ha : Always s) (hq : s.seq = .done) (hr : s.answerOk = true) (hm : s.msg = [] ∨ s.code = codeOther)
    (hs : s.da = [] ∧ s.db = [] ∧ s.acc = []) (hi : ∀ x ∈ s.wk, x = .idle) (hp : s.rowsPending = []) : Consistent s :=
  { ha with
    codesOk := ⟨ha.codeLe, ha.failCodeLe, fun h => absurd hq h, by simp [hq]⟩
    msgOk := hm.imp_right fun h => .inr ⟨hq, h⟩
    lenA := by simp [hq, Seq.checkedA, Seq.allocated]
    lenB := by simp [hq, Seq.checkedB, Seq.allocated]
    lenC := by simp [hq, Seq.sized, Seq.allocated]
    regionAt := by simp [hq, Seq.allocated]
    noRegion := fun _ _ h => absurd hq h
    answerAt := fun _ => hr
    storesAt := by simp [hq, Seq.allocated]
    noStores := fun _ _ => hs
    daSet := by simp [hq, Seq.decodedA]
    dbSet := by simp [hq, Seq.decodedB]
    accSet := by simp [hq, Seq.cleared]
    idleOutside := fun _ _ => hi
    inRangeAt := by simp [hq]
    poolAt := by simp [hq]
    poolAfter := by simp [hq]
    poolOutside := fun _ _ => hp
    poolBefore := fun _ _ _ _ h => absurd hq h }

end Sys2Proof.Machine
end

section
/-! PROOFS. Every step keeps the invariant `Consistent`: one lemma per operation, then one per agent. -/

namespace Sys2Proof.Machine

variable {s t : State}

/-! ### Bookkeeping, marks and failures -/

/-- The model's own fields play no part in the invariant. -/
theorem Consistent.drawn (h : Consistent s) : Consistent s.drawn := { h with }

theorem Consistent.raiseFault (h : Consistent s) (k : FaultKind) : Consistent (s.raiseFault k) :=
  { h with marksOk := ⟨nodup_insertNew h.marksOk.1, h.marksOk.2⟩ }

theorem Consistent.refuse (h : Consistent s) (r : RefuseReason) : Consistent (s.refuse r) :=
  { h with marksOk := ⟨h.marksOk.1, nodup_insertNew h.marksOk.2⟩ }

/-- A failure raised while the call runs, its message empty unless it is Other. -/
theorem Consistent.raiseFailure (h : Consistent s) (hd : s.seq ≠ .done) {c : BitVec 8} (hle : c.toNat ≤ 4) (hc : c ≠ 0)
    {msg : List Byte} (hm : msg = [] ∨ c = codeOther) : Consistent { s.raiseFailure c with msg := msg } :=
  .ofRespondFail { h.always with failCodeLe := hle } rfl (h.code_eq_zero hd) hc hm

theorem Consistent.raiseFailure_quiet (h : Consistent s) (hf : s.seq ≠ .respondFail) (hd : s.seq ≠ .done) {c : BitVec 8}
    (hle : c.toNat ≤ 4) (hc : c ≠ 0) : Consistent (s.raiseFailure c) :=
  .ofRespondFail { h.always with failCodeLe := hle } rfl (h.code_eq_zero hd) hc (.inl (h.msg_eq_nil hf hd))

/-! ### The commands -/

/-- At the first micro-operation of a call no check has been made. -/
theorem firstSeq_unchecked (o : CheckOrder) :
    Early (firstSeq o) ∧ Seq.checkedA o (firstSeq o) = false ∧ Seq.checkedB o (firstSeq o) = false ∧
      Seq.sized o (firstSeq o) = false := by
  cases o <;> decide

theorem fits_of_latch {c : Config} {r : OperandRegs} {g : Arg} (hl : r.latch = some g)
    (h : ∀ v ∈ [r.aBase, r.aLen, r.bBase, r.bLen, r.m, r.n, r.k], fits c v = true) :
    ∀ v ∈ [g.aBase, g.aLen, g.bBase, g.bLen, g.m, g.n, g.k], v ≤ c.sizeMax := by
  rw [latch_eq_some] at hl
  subst hl
  simpa [fits] using h

theorem Consistent.execMultiply (h : Consistent s) (hx : execMultiply s = .next t) : Consistent t := by
  obtain ⟨-, rfl⟩ | ⟨-, -, rfl⟩ | ⟨-, rfl⟩ | ⟨-, -, rfl⟩ | ⟨hs, -, g, hl, hA, hB, rfl⟩ := execMultiply_next hx
  · exact h.refuse _
  · exact h.raiseFault _
  · exact h.refuse _
  · exact h
  · obtain ⟨hq, h1, h2, h3⟩ := firstSeq_unchecked s.cfg.checkOrder
    have hu := h.unheld (by simp [hs, Early, Seq.allocated])
    exact .ofEarly { h.always with argFits := fits_of_latch hl h.regsOk, argRange := ⟨hA, hB⟩, regionFree := rfl } hq
      { hu with msg := rfl, out := rfl } (fun h => absurd (h1.symm.trans h) (by decide)) (fun h => absurd (h2.symm.trans h) (by decide))
      (fun h => absurd (h3.symm.trans h) (by decide))

theorem Consistent.execAck (h : Consistent s) (hx : execAck s = .next t) : Consistent t := by
  obtain ⟨hs, rfl⟩ | ⟨-, rfl⟩ := execAck_next hx
  · have hi := h.idleOutside (by simp [hs]) (by simp [hs])
    have hn := h.noStores (by simp [hs, Seq.allocated]) (by simp [hs])
    exact .ofEarly { h.always with codeLe := Nat.zero_le _, regionFree := rfl } (by simp [State.endCall, Early, Seq.allocated])
      ⟨rfl, rfl, rfl, hn, hi, rfl, rfl⟩ nofun nofun nofun
  · exact h.refuse _

/-! ### The checks and SIZE_OUT -/

/-- Before ALLOC, next(X) is again a phase before or at ALLOC (spec/40 R112). -/
theorem nextSeq_early (o : CheckOrder) :
    Early (nextSeq o .validateA) ∧ Early (nextSeq o .validateB) ∧ Early (nextSeq o .sizeOut) := by cases o <;> decide

theorem sized_nextSeq_validateA (o : CheckOrder) : Seq.sized o (nextSeq o .validateA) = Seq.sized o .validateA := by cases o <;> rfl
theorem sized_nextSeq_validateB (o : CheckOrder) : Seq.sized o (nextSeq o .validateB) = Seq.sized o .validateB := by cases o <;> rfl
theorem checkedA_nextSeq_sizeOut (o : CheckOrder) : Seq.checkedA o (nextSeq o .sizeOut) = Seq.checkedA o .sizeOut := by cases o <;> rfl
theorem checkedB_nextSeq_sizeOut (o : CheckOrder) : Seq.checkedB o (nextSeq o .sizeOut) = Seq.checkedB o .sizeOut := by cases o <;> rfl

theorem Consistent.execValidateA (h : Consistent s) (hs : s.seq = .validateA) (hx : execValidateA s = .next t) : Consistent t := by
  have hu := h.unheld (by simp [hs, Early, Seq.allocated])
  cases hx
  obtain hv | ⟨hv, hl, -⟩ | hv := validate_cases s .validateA s.arg.aLen s.arg.m s.arg.k <;> rw [hv]
  · exact h.raiseFault _
  · refine .ofEarly { h.always with } (nextSeq_early s.cfg.checkOrder).1 { hu with } (fun _ => hl) nofun fun hq => h.lenC ?_
    rw [hs]
    exact (sized_nextSeq_validateA _).symm.trans hq
  · exact h.raiseFailure_quiet (by simp [hs]) (by simp [hs]) (by decide) (by decide)

theorem Consistent.execValidateB (h : Consistent s) (hs : s.seq = .validateB) (hx : execValidateB s = .next t) : Consistent t := by
  have hu := h.unheld (by simp [hs, Early, Seq.allocated])
  have hA := h.lenA (by simp [hs, Seq.checkedA])
  cases hx
  obtain hv | ⟨hv, hl, -⟩ | hv := validate_cases s .validateB s.arg.bLen s.arg.k s.arg.n <;> rw [hv]
  · exact h.raiseFault _
  · refine .ofEarly { h.always with } (nextSeq_early s.cfg.checkOrder).2.1 { hu with } (fun _ => hA) (fun _ => hl) fun hq => h.lenC ?_
    rw [hs]
    exact (sized_nextSeq_validateB _).symm.trans hq
  · exact h.raiseFailure_quiet (by simp [hs]) (by simp [hs]) (by decide) (by decide)

theorem Consistent.execSizeOut (h : Consistent s) (hs : s.seq = .sizeOut) (hx : execSizeOut s = .next t) : Consistent t := by
  have hu := h.unheld (by simp [hs, Early, Seq.allocated])
  rw [execSizeOut_eq] at hx
  split at hx <;> cases hx
  · exact h.raiseFailure_quiet (by simp [hs]) (by simp [hs]) (by decide) (by decide)
  · rename_i hfit
    refine .ofEarly { h.always with } (nextSeq_early s.cfg.checkOrder).2.2 { hu with } (fun hq => h.lenA ?_) (fun hq => h.lenB ?_)
      fun _ => ⟨rfl, Nat.le_of_not_lt hfit⟩ <;> rw [hs]
    · exact (checkedA_nextSeq_sizeOut _).symm.trans hq
    · exact (checkedB_nextSeq_sizeOut _).symm.trans hq

/-! ### ALLOC -/

theorem inRange_iff {r : Region} {c : Config} : r.inRange c = true ↔ r.base + r.len ≤ c.addrSpace := by simp [Region.inRange]

/-- Redrawing the bytes of a region in range keeps memory canonical. -/
theorem memOk_fill {c : Config} {m : Memory} (h : Memory.wf m = true ∧ ∀ d ∈ m, d.1 < c.addrSpace) {r : Region}
    (hr : r.inRange c = true) (f : Nat → Byte) :
    Memory.wf (Memory.fill f m r.base r.len) = true ∧ ∀ d ∈ Memory.fill f m r.base r.len, d.1 < c.addrSpace :=
  ⟨Memory.wf_fill h.1 _ _ _, Memory.bounded_fill h.2 (inRange_iff.mp hr) _⟩

/-- With a region that is the call's and clear of the inputs, and fresh stores, the call is past ALLOC. -/
theorem Consistent.takeRegion (h : Consistent s) (hs : s.seq = .alloc) {out : Option Region} {live : List Region} {mem : Memory}
    {draws : Nat} (hm : Memory.wf mem = true ∧ ∀ c ∈ mem, c.1 < s.cfg.addrSpace)
    (hr : { s with out := out, live := live, mem := mem, draws := draws }.regionOk = true)
    (hc : { s with out := out, live := live, mem := mem, draws := draws }.regionClear = true) :
    Consistent ({ s with out := out, live := live, mem := mem, draws := draws }.takeStores.goNext .alloc) := by
  have hu := h.unheld (by simp [hs, Early, Seq.allocated])
  have hA := h.lenA (by simp [hs, Seq.checkedA])
  have hB := h.lenB (by simp [hs, Seq.checkedB])
  have hC := h.lenC (by simp [hs, Seq.sized])
  refine .ofHeld { h.always with memOk := hm, regionFree := hc } rfl ⟨hu.code, hu.msg, hA, hB, hC, hr, ?_⟩ ⟨nofun, nofun, nofun⟩
    (.empty nofun nofun nofun hu.idle hu.pending hu.rowsDone)
  simp [unsetCells]

theorem Consistent.execAlloc (h : Consistent s) (hs : s.seq = .alloc) (hx : execAlloc s = .next t) : Consistent t := by
  obtain ⟨-, rfl⟩ | ⟨-, h0, rfl⟩ | ⟨-, -, -, rfl⟩ | ⟨-, -, base, hb, rfl⟩ := execAlloc_next hx
  · exact h.raiseFault _
  · have hlt : Config.emptyBase s.draws % s.cfg.addrSpace < s.cfg.addrSpace := Nat.mod_lt _ (Nat.two_pow_pos _)
    exact h.takeRegion hs h.memOk (by simp [State.regionOk, h0]) (by simp [State.regionClear, inRange_iff, Region.disjoint, hlt.le])
  · exact h.drawn.raiseFailure_quiet (by simp [hs]) (by simp [hs]) (by decide) (by decide)
  · obtain ⟨hr, h1, h2, -⟩ := mayAllocate_iff.mp (request_eq_some hb).2
    exact h.takeRegion hs (memOk_fill h.memOk hr _) (by simp [State.regionOk]) (by simp [State.regionClear, hr, h1, h2])

/-! ### The stores filled: DECODE_A, DECODE_B, ACC_CLEAR -/

theorem elemCount_double (n : Nat) : elemCount (2 * n) = n := by simp [elemCount]

/-- Overwriting a store of so many cells with the elements of a buffer of as many leaves no cell unset. -/
theorem overwrite_decodeElems_set {c : Config} {m : Memory} {base cnt : Nat} {cells : List Cell} (h : cells.length = cnt) :
    (overwrite (decodeElems c m base cnt) cells).all Option.isSome = true :=
  overwrite_all_set (by simp [decodeElems, h])

theorem Consistent.pool_empty (h : Consistent s) (hf : s.seq ≠ .respondFail) (hj : s.seq ≠ .join) (he : s.seq ≠ .encode)
    (hr : s.seq ≠ .respondOk) (hd : s.seq ≠ .done) : (∀ x ∈ s.wk, x = .idle) ∧ s.rowsPending = [] ∧ s.rowsDone = [] :=
  ⟨h.idleOutside hj hf, h.poolOutside hj hf, h.poolBefore hj he hr hf hd⟩

theorem Consistent.execDecodeA (h : Consistent s) (hs : s.seq = .decodeA) (hx : execDecodeA s = .next t) : Consistent t := by
  have hh := h.held (by simp [hs, Seq.allocated])
  obtain ⟨hi, hp, hd⟩ := h.pool_empty (by simp [hs]) (by simp [hs]) (by simp [hs]) (by simp [hs]) (by simp [hs])
  obtain ⟨hA, hB, hC⟩ := hh.stores
  obtain ⟨-, rfl⟩ := execDecodeA_next hx
  refine .ofHeld { h.always with } rfl { hh with stores := ⟨by simpa using hA, hB, hC⟩ } ⟨fun _ => ?_, nofun, nofun⟩
    (.empty nofun nofun nofun hi hp hd)
  exact overwrite_decodeElems_set (by rw [hh.aLen, elemCount_double, hA])

theorem Consistent.execDecodeB (h : Consistent s) (hs : s.seq = .decodeB) (hx : execDecodeB s = .next t) : Consistent t := by
  have hh := h.held (by simp [hs, Seq.allocated])
  have hda := h.daSet (by simp [hs, Seq.decodedA])
  obtain ⟨hi, hp, hd⟩ := h.pool_empty (by simp [hs]) (by simp [hs]) (by simp [hs]) (by simp [hs]) (by simp [hs])
  obtain ⟨hA, hB, hC⟩ := hh.stores
  obtain ⟨-, rfl⟩ := execDecodeB_next hx
  refine .ofHeld { h.always with } rfl { hh with stores := ⟨hA, by simpa using hB, hC⟩ } ⟨fun _ => hda, fun _ => ?_, nofun⟩
    (.empty nofun nofun nofun hi hp hd)
  exact overwrite_decodeElems_set (by rw [hh.bLen, elemCount_double, hB])

theorem Consistent.execAccClear (h : Consistent s) (hs : s.seq = .accClear) (hx : execAccClear s = .next t) : Consistent t := by
  have hh := h.held (by simp [hs, Seq.allocated])
  have hda := h.daSet (by simp [hs, Seq.decodedA])
  have hdb := h.dbSet (by simp [hs, Seq.decodedB])
  obtain ⟨hi, hp, hd⟩ := h.pool_empty (by simp [hs]) (by simp [hs]) (by simp [hs]) (by simp [hs]) (by simp [hs])
  obtain ⟨hA, hB, hC⟩ := hh.stores
  cases hx
  refine .ofHeld { h.always with } rfl { hh with stores := ⟨hA, hB, by simpa using hC⟩ } ⟨fun _ => hda, fun _ => hdb, fun _ => ?_⟩
    (.empty nofun nofun nofun hi hp hd)
  exact overwrite_all_set (by simp [hC])

/-! ### The multiply phase begins and ends: DISPATCH, JOIN -/

theorem filterMap_owned_idle {ws : List Worker} (h : ∀ x ∈ ws, x = .idle) : ws.filterMap Worker.owned = [] :=
  List.filterMap_eq_nil_iff.mpr fun x hx => by rw [h x hx]; rfl

/-- Filled stores, a held region and phase-free facts carry over to any later phase of the call, given its pool. -/
theorem Consistent.moveOn (h : Consistent s) (hs : s.seq.cleared = true) {x : Seq} (hx : x.cleared = true) {pending done : List Nat}
    (hp : Pool { s with rowsPending := pending, rowsDone := done, seq := x }) :
    Consistent { s with rowsPending := pending, rowsDone := done, seq := x } := by
  have hset : ∀ y : Seq, y.cleared = true → y.allocated = true ∧ y.decodedA = true ∧ y.decodedB = true := by
    intro y; cases y <;> decide
  obtain ⟨hal, hA, hB⟩ := hset _ hs
  exact .ofHeld { h.always with } (hset x hx).1 { h.held hal with } ⟨fun _ => h.daSet hA, fun _ => h.dbSet hB, fun _ => h.accSet hs⟩ hp

theorem Consistent.execDispatch (h : Consistent s) (hs : s.seq = .dispatch) (hx : execDispatch s = .next t) : Consistent t := by
  obtain ⟨hi, -, -⟩ := h.pool_empty (by simp [hs]) (by simp [hs]) (by simp [hs]) (by simp [hs]) (by simp [hs])
  cases hx
  refine h.moveOn (x := .join) (by simp [hs, Seq.cleared]) rfl (.sharedOut rfl (fun x hx => ?_) ?_)
  · rw [hi x hx]
    rfl
  · simp [filterMap_owned_idle hi]

/-- With every row done no row is pending or owned (spec/42 R156). -/
theorem Consistent.allRows_done (h : Consistent s) (hs : s.seq = .join) (hd : isAllRows s.arg.m s.rowsDone = true) :
    s.rowsPending = [] ∧ (∀ x ∈ s.wk, x = .idle) ∧ s.rowsDone.Perm (List.range s.arg.m) := by
  have hp := h.poolAt hs
  have hmem := isAllRows_iff.mp hd
  obtain ⟨-, hnd, hdis⟩ := List.nodup_append.mp (hp.nodup_iff.mpr List.nodup_range)
  have hnil : s.rowsPending ++ s.wk.filterMap Worker.owned = [] := by
    refine List.eq_nil_iff_forall_not_mem.mpr fun i hi => ?_
    have hr := hp.mem_iff.mp (List.mem_append_left _ hi)
    exact hdis i hi i ((hmem i).mpr (List.mem_range.mp hr)) rfl
  obtain ⟨hpend, hown⟩ := List.append_eq_nil_iff.mp hnil
  refine ⟨hpend, fun x hx => ?_, by simpa [hnil] using hp⟩
  cases x with
  | idle => rfl
  | row i j p v => exact absurd (List.filterMap_eq_nil_iff.mp hown _ hx) (by simp [Worker.owned])

theorem Consistent.execJoin (h : Consistent s) (hs : s.seq = .join) (hx : execJoin s = .next t) : Consistent t := by
  obtain ⟨hd, rfl⟩ | ⟨-, rfl⟩ := execJoin_next hx
  · obtain ⟨hp, hi, hperm⟩ := h.allRows_done hs hd
    exact h.moveOn (by simp [hs, Seq.cleared]) rfl (.allDone (.inl rfl) hi hp hperm)
  · exact h

/-! ### The answer: ENCODE, RESPOND_OK, RESPOND_FAIL -/

theorem Consistent.setMem (h : Consistent s) {m : Memory} (hw : Memory.wf m = true) (hb : ∀ c ∈ m, c.1 < s.cfg.addrSpace) :
    Consistent { s with mem := m } := { h with memOk := ⟨hw, hb⟩ }

theorem Consistent.execEncode (h : Consistent s) (hs : s.seq = .encode) (hx : execEncode s = .next t) : Consistent t := by
  obtain ⟨r, -, ⟨-, rfl⟩ | ⟨vs, hv, hfit, rfl⟩⟩ := execEncode_next hx
  · exact h.raiseFault _
  · obtain ⟨hlen, -⟩ := readCells_eq_some hv
    obtain ⟨hp, hperm⟩ := h.poolAfter (.inl hs)
    have hbound : vs.map (enc16 s.cfg.nan32to16) = [] ∨
        r.base + 2 * (vs.map (enc16 s.cfg.nan32to16)).length ≤ s.cfg.addrSpace := by
      simpa [hlen, ← List.length_eq_zero_iff] using hfit
    have hm := h.setMem (Memory.wf_writeHalves h.memOk.1 _ _) (Memory.bounded_writeHalves h.memOk.2 hbound)
    exact hm.moveOn (by simp [hs, Seq.cleared]) rfl (.allDone (.inr rfl) (h.idleOutside (by simp [hs]) (by simp [hs])) hp hperm)

theorem Consistent.execRespondOk (h : Consistent s) (hs : s.seq = .respondOk) (hx : execRespondOk s = .next t) : Consistent t := by
  have hh := h.held (by simp [hs, Seq.allocated])
  obtain ⟨r, hr, rfl⟩ := execRespondOk_next hx
  refine .ofDone { h.always with codeLe := Nat.zero_le _ } rfl ?_ (.inl rfl) ⟨rfl, rfl, rfl⟩
    (h.idleOutside (by simp [hs]) (by simp [hs])) (h.poolOutside (by simp [hs]) (by simp [hs]))
  have hreg := hh.region
  simp only [State.regionOk, hr, Bool.and_eq_true, decide_eq_true_eq] at hreg
  have hlen : r.len = 2 * s.arg.m * s.arg.n := by rw [hreg.1, hh.outReq.1, Nat.mul_assoc]
  simp [State.answerOk, hr, ← hlen]

/-- Releasing OUT keeps what holds in every phase. -/
theorem Consistent.always_release (h : Consistent s) : Always s.release := by
  have hc := h.regionFree
  unfold State.release
  unfold State.regionClear at hc
  split
  · exact h.always
  · rename_i r hr
    rw [hr] at hc
    simp only [Bool.and_eq_true] at hc
    exact { h.always with memOk := memOk_fill h.memOk hc.1.1 _, regionFree := rfl }

theorem release_out_msg (s : State) : s.release.out = none ∧ s.release.msg = s.msg := by
  unfold State.release
  split
  · exact ⟨‹_›, rfl⟩
  · exact ⟨rfl, rfl⟩

theorem Consistent.execRespondFail (h : Consistent s) (hs : s.seq = .respondFail) (hx : execRespondFail s = .next t) :
    Consistent t := by
  obtain ⟨-, hle, -, hf⟩ := h.codesOk
  obtain ⟨hout, hmsg⟩ := release_out_msg s
  have ha := h.always_release
  cases hx
  refine .ofDone { ha with codeLe := hle, workersOk := ?_ } rfl ?_ ?_ ⟨rfl, rfl, rfl⟩ ?_ rfl
  · simpa using ha.workersOk
  · have hne := hf hs
    simp_all [State.answerOk]
  · simpa [hs, hmsg] using h.msgOk
  · simp

/-! ### The workers -/

theorem filterMap_cons_toList {α β : Type} (f : α → Option β) (a : α) (l : List α) :
    (a :: l).filterMap f = (f a).toList ++ l.filterMap f := by
  rw [List.filterMap_cons]
  cases f a <;> rfl

/-- Putting `x` in the place of `y` trades `y`'s image for `x`'s. -/
theorem filterMap_set_perm {α β : Type} (f : α → Option β) {l : List α} {c : Nat} {y : α} (h : l[c]? = some y) (x : α) :
    ((f y).toList ++ (l.set c x).filterMap f).Perm ((f x).toList ++ l.filterMap f) := by
  induction l generalizing c with
  | nil => simp at h
  | cons z l ih =>
    cases c with
    | zero =>
      cases (List.getElem?_cons_zero.symm.trans h)
      simpa only [List.set_cons_zero, filterMap_cons_toList] using List.perm_append_comm_assoc _ _ _
    | succ c =>
      rw [List.getElem?_cons_succ] at h
      simp only [List.set_cons_succ, filterMap_cons_toList]
      calc ((f y).toList ++ ((f z).toList ++ (l.set c x).filterMap f)).Perm _ := List.perm_append_comm_assoc _ _ _
        List.Perm _ ((f z).toList ++ ((f x).toList ++ l.filterMap f)) := (ih h).append_left _
        List.Perm _ _ := List.perm_append_comm_assoc _ _ _

/-- A worker's step in the multiply phase keeps the invariant when the worker stays in range and every row stays shared out. -/
theorem Consistent.setWorker (h : Consistent s) (hj : s.seq = .join) {x : Worker} (hx : x.inRange s.arg = true) {pending done : List Nat}
    (hp : (pending ++ (s.wk.set s.cur x).filterMap Worker.owned ++ done).Perm (List.range s.arg.m)) :
    Consistent ({ s with rowsPending := pending, rowsDone := done }.setWorker x) := by
  have hpool : Pool ({ s with rowsPending := pending, rowsDone := done }.setWorker x) :=
    .sharedOut hj (fun y hy => (List.mem_or_eq_of_mem_set hy).elim (h.inRangeAt hj y) (fun hyx => hyx ▸ hx)) hp
  exact .ofHeld { h.always with workersOk := by simpa using h.workersOk } (by simp [hj, Seq.allocated])
    { h.held (by simp [hj, Seq.allocated]) with } { h.filled with } hpool

/-- A step within a row leaves the pool as it is. -/
theorem Consistent.setWorker_sameRow (h : Consistent s) (hj : s.seq = .join) {x y : Worker} (hw : s.worker = some y)
    (hx : x.inRange s.arg = true) (ho : x.owned = y.owned) : Consistent (s.setWorker x) := by
  refine h.setWorker hj hx (.trans ?_ (h.poolAt hj))
  have := filterMap_set_perm Worker.owned hw x
  rw [ho] at this
  exact ((List.perm_append_left_iff _).mp this |>.append_left _).append_right _

/-- The worker at work is in range. -/
theorem Consistent.worker_inRange (h : Consistent s) (hj : s.seq = .join) {y : Worker} (hw : s.worker = some y) :
    y.inRange s.arg = true := h.inRangeAt hj y (List.mem_of_getElem? hw)

theorem inRange_row_none {g : Arg} {i j p : Nat} : (Worker.row i j p none).inRange g = true ↔ i < g.m ∧ j ≤ g.n ∧ p = 0 := by
  simp [Worker.inRange]

theorem inRange_row_some {g : Arg} {i j p : Nat} {v : Single} :
    (Worker.row i j p (some v)).inRange g = true ↔ i < g.m ∧ j < g.n ∧ p ≤ g.k ∧ (g.k / 8 * 8 < p ∨ p % 8 = 0) := by
  simp [Worker.inRange]

theorem Consistent.execRowClaim (h : Consistent s) (hj : s.seq = .join) (hx : execRowClaim s = .next t) : Consistent t := by
  obtain ⟨hw, ⟨-, rfl⟩ | ⟨-, i, hi, rfl⟩⟩ := execRowClaim_next hx
  · exact h
  · have hm : i < s.arg.m := List.mem_range.mp ((h.poolAt hj).mem_iff.mp (by simp [hi]))
    refine (h.setWorker hj (inRange_row_none.mpr ⟨hm, Nat.zero_le _, rfl⟩) (.trans ?_ (h.poolAt hj))).drawn
    have hown : ((s.wk.set s.cur (.row i 0 0 none)).filterMap Worker.owned).Perm (i :: s.wk.filterMap Worker.owned) :=
      filterMap_set_perm Worker.owned hw _
    refine List.Perm.append_right _ ?_
    calc (s.rowsPending.erase i ++ (s.wk.set s.cur (.row i 0 0 none)).filterMap Worker.owned).Perm
          (s.rowsPending.erase i ++ i :: s.wk.filterMap Worker.owned) := hown.append_left _
      List.Perm _ (i :: s.rowsPending.erase i ++ s.wk.filterMap Worker.owned) := List.perm_middle
      List.Perm _ (s.rowsPending ++ s.wk.filterMap Worker.owned) := (List.perm_cons_erase hi).symm.append_right _

theorem Consistent.execElemInit (h : Consistent s) (hj : s.seq = .join) (hx : execElemInit s = .next t) : Consistent t := by
  obtain ⟨i, j, p, hw, hlt, rfl⟩ := execElemInit_next hx
  obtain ⟨hi, -, -⟩ := inRange_row_none.mp (h.worker_inRange hj hw)
  exact h.setWorker_sameRow hj hw (inRange_row_some.mpr ⟨hi, hlt, Nat.zero_le _, .inr rfl⟩) rfl

theorem Consistent.execGroup8 (h : Consistent s) (hj : s.seq = .join) (hx : execGroup8 s = .next t) : Consistent t := by
  obtain ⟨i, j, p, v, hw, hp, ⟨-, rfl⟩ | ⟨ps, -, rfl⟩⟩ := execGroup8_next hx
  · exact h.raiseFault _
  · obtain ⟨hi, hlt, -, hgroup⟩ := inRange_row_some.mp (h.worker_inRange hj hw)
    exact .drawn (h.setWorker_sameRow hj hw (inRange_row_some.mpr ⟨hi, hlt, by omega, by omega⟩) rfl)

theorem Consistent.execMac1 (h : Consistent s) (hj : s.seq = .join) (hx : execMac1 s = .next t) : Consistent t := by
  obtain ⟨i, j, p, v, hw, hp, hp8, ⟨-, rfl⟩ | ⟨x, -, rfl⟩⟩ := execMac1_next hx
  · exact h.raiseFault _
  · obtain ⟨hi, hlt, -, hgroup⟩ := inRange_row_some.mp (h.worker_inRange hj hw)
    exact .drawn (h.setWorker_sameRow hj hw (inRange_row_some.mpr ⟨hi, hlt, by omega, by omega⟩) rfl)

/-- Writing a pattern into a cell of ACC keeps its size and leaves no cell unset. -/
theorem Consistent.setAcc (h : Consistent s) (hj : s.seq = .join) (e : Nat) (v : Single) :
    Consistent { s with acc := s.acc.set e (some v) } := by
  have hset := h.accSet (by simp [hj, Seq.cleared])
  refine { h with storesAt := fun ha => ?_, noStores := by simp [hj, Seq.allocated], accSet := fun _ => ?_ }
  · obtain ⟨hA, hB, hC⟩ := h.storesAt ha
    exact ⟨hA, hB, by simpa using hC⟩
  · rw [List.all_eq_true] at hset ⊢
    exact fun c hc => (List.mem_or_eq_of_mem_set hc).elim (hset c) (fun hcv => hcv ▸ rfl)

theorem Consistent.execElemStore (h : Consistent s) (hj : s.seq = .join) (hx : execElemStore s = .next t) : Consistent t := by
  obtain ⟨i, j, p, v, hw, -, rfl⟩ := execElemStore_next hx
  obtain ⟨hi, hlt, -, -⟩ := inRange_row_some.mp (h.worker_inRange hj hw)
  exact (h.setAcc hj _ v).setWorker_sameRow hj hw (inRange_row_none.mpr ⟨hi, hlt, rfl⟩) rfl

/-- A row some worker owns is not done. -/
theorem Consistent.owned_not_done (h : Consistent s) (hj : s.seq = .join) {i j p : Nat} {v : Option Single}
    (hw : s.worker = some (.row i j p v)) : i ∉ s.rowsDone := by
  obtain ⟨-, -, hdis⟩ := List.nodup_append.mp ((h.poolAt hj).nodup_iff.mpr List.nodup_range)
  have hi : i ∈ s.wk.filterMap Worker.owned := List.mem_filterMap.mpr ⟨_, List.mem_of_getElem? hw, rfl⟩
  exact fun hd => hdis i (List.mem_append_right _ hi) i hd rfl

theorem Consistent.execRowDone (h : Consistent s) (hj : s.seq = .join) (hx : execRowDone s = .next t) : Consistent t := by
  obtain ⟨i, j, p, hw, -, rfl⟩ := execRowDone_next hx
  refine h.setWorker hj rfl (.trans ?_ (h.poolAt hj))
  have hown : (i :: (s.wk.set s.cur .idle).filterMap Worker.owned).Perm (s.wk.filterMap Worker.owned) :=
    filterMap_set_perm Worker.owned hw _
  rw [insertNew, if_neg (h.owned_not_done hj hw), List.append_assoc, List.append_assoc]
  refine List.Perm.append_left _ ?_
  calc ((s.wk.set s.cur .idle).filterMap Worker.owned ++ (s.rowsDone ++ [i])).Perm
        ((s.wk.set s.cur .idle).filterMap Worker.owned ++ i :: s.rowsDone) := (List.perm_append_singleton _ _).append_left _
    List.Perm _ (i :: (s.wk.set s.cur .idle).filterMap Worker.owned ++ s.rowsDone) := List.perm_middle
    List.Perm _ (s.wk.filterMap Worker.owned ++ s.rowsDone) := hown.append_right _

/-! ### The agents -/

/-- A command word, whatever it decodes to. -/
theorem Consistent.command {i : Instr} (h : Consistent s) (hi : i = .multiply ∨ i = .ack) (hx : exec i s = .next t) : Consistent t := by
  obtain rfl | rfl := hi
  · exact h.execMultiply hx
  · exact h.execAck hx

theorem fits_set {c : Config} {r : OperandRegs} (h : ∀ v ∈ [r.aBase, r.aLen, r.bBase, r.bLen, r.m, r.n, r.k], fits c v = true)
    (q : OperandReg) {v : Nat} (hv : v ≤ c.sizeMax) :
    ∀ w ∈ [(r.set q v).aBase, (r.set q v).aLen, (r.set q v).bBase, (r.set q v).bLen, (r.set q v).m, (r.set q v).n, (r.set q v).k],
      fits c w = true := by
  cases q <;> simp_all [OperandRegs.set, fits]

/-- Giving back a region that is not OUT leaves OUT known to the allocator. -/
theorem Consistent.freeRegion (h : Consistent s) {r : Region} (hr : s.out ≠ some r) :
    Consistent { s with live := s.live.erase r } := by
  refine { h with regionAt := fun ha => ?_ }
  have hreg := h.regionAt ha
  unfold State.regionOk at hreg ⊢
  cases ho : s.out with
  | none => simp [ho] at hreg
  | some q =>
    have hne : q ≠ r := fun hq => hr (hq ▸ ho)
    simpa [ho, List.mem_erase_of_ne hne] using hreg

theorem Consistent.hostTouch (h : Consistent s) {act : HostAction} (hx : hostTouch s act = .next t) : Consistent t := by
  obtain ⟨r, v, -, hv, rfl⟩ | ⟨d, rfl⟩ | ⟨a, b, -, ha, -, rfl⟩ | ⟨r, -, hr, rfl⟩ | rfl := hostTouch_next hx
  · exact { h with regsOk := fits_set h.regsOk r hv }
  · exact { h with }
  · exact h.setMem (Memory.wf_write h.memOk.1 _ _) (Memory.bounded_write h.memOk.2 ha _)
  · exact h.freeRegion hr
  · exact h

theorem Consistent.hostStep (h : Consistent s) (hx : hostStep s = .next t) : Consistent t := by
  have hp : Consistent s.popHost := { h with }
  obtain ⟨-, rfl⟩ | ⟨w, rest, -, ⟨e, -, rfl⟩ | ⟨i, hi, -, hx⟩⟩ | ⟨act, rest, -, -, hx⟩ := hostStep_next hx
  · exact h
  · exact hp.refuse _
  · exact hp.command (decode_cmd32_ok hi) hx
  · exact hp.hostTouch hx

/-- The micro-operation SEQ names. -/
theorem Consistent.sequencerStep (h : Consistent s) {i : Instr} (hi : s.seq.uop = some i) (hx : exec i s = .next t) : Consistent t := by
  cases hs : s.seq <;> rw [hs] at hi <;> cases hi
  case validateA => exact h.execValidateA hs hx
  case validateB => exact h.execValidateB hs hx
  case sizeOut => exact h.execSizeOut hs hx
  case alloc => exact h.execAlloc hs hx
  case decodeA => exact h.execDecodeA hs hx
  case decodeB => exact h.execDecodeB hs hx
  case accClear => exact h.execAccClear hs hx
  case dispatch => exact h.execDispatch hs hx
  case join => exact h.execJoin hs hx
  case encode => exact h.execEncode hs hx
  case respondOk => exact h.execRespondOk hs hx
  case respondFail => exact h.execRespondFail hs hx

/-- A worker's micro-operation. -/
theorem Consistent.workerStep (h : Consistent s) (hj : s.seq = .join) {i : Instr} (hi : i.ofWorker = true) (hx : exec i s = .next t) :
    Consistent t := by
  cases i <;> cases hi
  case rowClaim => exact h.execRowClaim hj hx
  case elemInit => exact h.execElemInit hj hx
  case group8 => exact h.execGroup8 hj hx
  case mac1 => exact h.execMac1 hj hx
  case elemStore => exact h.execElemStore hj hx
  case rowDone => exact h.execRowDone hj hx

/-- Settles O15: each agent's step keeps the invariant. -/
theorem stepKeepsConsistent : Obligations.StepKeepsConsistent := by
  intro s t h hx
  have htick : Consistent s.tick := { h with }
  obtain ⟨-, -, -, rfl⟩ | ⟨-, hx⟩ | ⟨-, -, -, i, hi, hx⟩ | ⟨-, -, hr, rfl⟩ | ⟨w, i, -, -, hj, -, hi, hx⟩ := step_next hx
  · exact h
  · exact htick.hostStep hx
  · exact htick.sequencerStep hi hx
  · have hd : s.seq.uop.isSome = true := by simp_all [State.otherReady]
    have := htick.raiseFailure (Seq.uop_isSome_iff.mp hd).2 (c := codeOther) (msg := Config.otherMessage s.tick.draws) (by decide)
      (by decide) (.inr rfl)
    exact { this with }
  · have hcur : Consistent { s.tick with cur := w } := { htick with }
    exact hcur.workerStep hj (workerStep_ofWorker hi) hx

end Sys2Proof.Machine
end

section
/-! PROOFS. The workers compute DOT(i, j): arithmetic up to the bits of a NaN, the loop of DOT from any of its points, and which
elements are stored. -/

namespace Sys2Proof.Machine

variable {s t : State}

/-! ### Values up to the bits of a NaN (spec/42 R160) -/

theorem sameValue_iff {x y : Single} : sameValue x y = true ↔ x = y ∨ (Single.isNan x = true ∧ Single.isNan y = true) := by
  simp [sameValue]

@[simp] theorem sameValue_refl (x : Single) : sameValue x x = true := sameValue_iff.mpr (.inl rfl)

theorem sameValue_trans {x y z : Single} (h1 : sameValue x y = true) (h2 : sameValue y z = true) : sameValue x z = true := by
  rw [sameValue_iff] at *
  obtain rfl | ⟨hx, hy⟩ := h1
  · exact h2
  · obtain rfl | ⟨-, hz⟩ := h2
    · exact .inr ⟨hx, hy⟩
    · exact .inr ⟨hx, hz⟩

theorem sameValue_of_isNan {x y : Single} (hx : Single.isNan x = true) (hy : Single.isNan y = true) : sameValue x y = true :=
  sameValue_iff.mpr (.inr ⟨hx, hy⟩)

/-- Only a NaN has the value of another pattern. -/
theorem eq_of_sameValue {x y : Single} (h : sameValue x y = true) (hy : Single.isNan y = false) : x = y := by
  obtain h | ⟨-, h⟩ := sameValue_iff.mp h
  · exact h
  · simp [hy] at h

theorem quietNan_isNan : Single.isNan quietNan = true := by decide

theorem arithNan_isNan (d q : Nat) : Single.isNan (arithNan d q) = true :=
  (Single.nanOf_isNan (Single.sign_lt _) (Single.frac_lt _)).1

theorem fadd_of_isNan (nan : Single) {x y : Single} (h : Single.isNan x = true ∨ Single.isNan y = true) : fadd nan x y = nan := by
  simp [fadd, h]

/-- The NaN supplied to an addition plays no part in the value. -/
theorem sameValue_fadd_nan {n n' : Single} (hn : Single.isNan n = true) (hn' : Single.isNan n' = true) (x y : Single) :
    sameValue (fadd n x y) (fadd n' x y) = true := by
  have hnn := sameValue_of_isNan hn hn'
  unfold fadd
  split_ifs <;> simp [hnn]

/-- Nor does the NaN supplied to a multiplication. -/
theorem sameValue_fmul_nan {n n' : Single} (hn : Single.isNan n = true) (hn' : Single.isNan n' = true) (x y : Single) :
    sameValue (fmul n x y) (fmul n' x y) = true := by
  have hnn := sameValue_of_isNan hn hn'
  unfold fmul
  split_ifs <;> simp [hnn]

/-- Addition respects values. -/
theorem sameValue_fadd {n n' x x' y y' : Single} (hn : Single.isNan n = true) (hn' : Single.isNan n' = true)
    (hx : sameValue x x' = true) (hy : sameValue y y' = true) : sameValue (fadd n x y) (fadd n' x' y') = true := by
  obtain rfl | ⟨hx, hx'⟩ := sameValue_iff.mp hx
  · obtain rfl | ⟨hy, hy'⟩ := sameValue_iff.mp hy
    · exact sameValue_fadd_nan hn hn' x y
    · rw [fadd_of_isNan n (.inr hy), fadd_of_isNan n' (.inr hy')]
      exact sameValue_of_isNan hn hn'
  · rw [fadd_of_isNan n (.inl hx), fadd_of_isNan n' (.inl hx')]
    exact sameValue_of_isNan hn hn'

/-- Two lists of the same values, place by place. -/
abbrev SameValues (xs ys : List Single) : Prop := List.Forall₂ (fun x y => sameValue x y = true) xs ys

theorem eq_of_sameValues {xs ys : List Single} (h : SameValues xs ys) (hy : ∀ y ∈ ys, Single.isNan y = false) : xs = ys := by
  induction h with
  | nil => rfl
  | cons hab _ ih => rw [eq_of_sameValue hab (hy _ List.mem_cons_self), ih fun y hm => hy y (List.mem_cons_of_mem _ hm)]

theorem sameValue_sumFrom {nan nan' : Nat → Single} (hn : ∀ q, Single.isNan (nan q) = true) (hn' : ∀ q, Single.isNan (nan' q) = true)
    {xs ys : List Single} (h : SameValues xs ys) {x y : Single} (hxy : sameValue x y = true) (q : Nat) :
    sameValue (sumFrom nan q x xs) (sumFrom nan' q y ys) = true := by
  induction h generalizing x y q with
  | nil => exact hxy
  | cons hab _ ih => exact ih (sameValue_fadd (hn q) (hn' q) hxy hab) (q + 1)

/-- The group of eight respects values, under the two orders the spec writes out (spec/42 R152). -/
theorem sameValue_combine {o : SumOrder} (ho : o ≠ .free) {nan nan' : Nat → Single} (hn : ∀ q, Single.isNan (nan q) = true)
    (hn' : ∀ q, Single.isNan (nan' q) = true) {xs ys : List Single} (h : SameValues xs ys) {x y : Single}
    (hxy : sameValue x y = true) : sameValue (combine o nan x xs) (combine o nan' y ys) = true := by
  cases o with
  | free => exact absurd rfl ho
  | linear => exact sameValue_sumFrom hn hn' h hxy 8
  | grouped =>
    cases h with
    | nil => exact hxy
    | cons hab hs => exact sameValue_fadd (hn 15) (hn' 15) hxy (sameValue_sumFrom hn hn' hs hab 8)

/-! ### The loop of DOT (spec/42 R164) -/

section Loop

variable {o : SumOrder} {pr : Nat → Single} {k : Nat}

/-- Past the last product the sum stands. -/
theorem dotFrom_of_le {p : Nat} (h : k ≤ p) (fuel : Nat) (v : Single) : dotFrom o pr k fuel p v = v := by
  cases fuel with
  | zero => rfl
  | succ fuel => rw [dotFrom, if_neg (by omega), if_neg (by omega)]

/-- As many rounds as products are left are enough. -/
theorem dotFrom_fuel {f f' p : Nat} (h : k - p ≤ f) (h' : k - p ≤ f') (v : Single) :
    dotFrom o pr k f p v = dotFrom o pr k f' p v := by
  induction f generalizing f' p v with
  | zero => rw [dotFrom_of_le (by omega), dotFrom_of_le (by omega)]
  | succ f ih =>
    cases f' with
    | zero => rw [dotFrom_of_le (by omega), dotFrom_of_le (by omega)]
    | succ f' =>
      rw [dotFrom, dotFrom]
      split
      · exact ih (by omega) (by omega) _
      · split
        · exact ih (by omega) (by omega) _
        · rfl

/-- The rest of the loop respects the value of the running sum, where no FREE group of eight is left. -/
theorem sameValue_dotFrom {p : Nat} (hfree : o = .free → k < p + 8) {v w : Single} (h : sameValue v w = true) (fuel : Nat) :
    sameValue (dotFrom o pr k fuel p v) (dotFrom o pr k fuel p w) = true := by
  have hq : ∀ _ : Nat, Single.isNan quietNan = true := fun _ => quietNan_isNan
  induction fuel generalizing p v w with
  | zero => exact h
  | succ fuel ih =>
    rw [dotFrom, dotFrom]
    split
    · have ho : o ≠ .free := fun hf => by have := hfree hf; omega
      exact ih (fun hf => absurd hf ho) (sameValue_combine ho hq hq (List.forall₂_same.mpr fun _ _ => sameValue_refl _) h)
    · split
      · exact ih (fun hf => by have := hfree hf; omega) (sameValue_fadd quietNan_isNan quietNan_isNan h (sameValue_refl _))
      · exact h

end Loop

/-- The eight products of a group, as DOT reads them. -/
def State.groupAt (s : State) (i j p : Nat) : List Single := (List.range 8).map fun q => s.prodAt i j (p + q)

theorem dotRest_group {i j p : Nat} (h : p + 8 ≤ s.arg.k) (v : Single) :
    s.dotRest i j p v = s.dotRest i j (p + 8) (combine s.cfg.sumOrder (fun _ => quietNan) v (s.groupAt i j p)) := by
  unfold State.dotRest
  rw [dotFrom_fuel (f' := s.arg.k - p - 1 + 1) (by omega) (by omega), dotFrom, if_pos h]
  exact dotFrom_fuel (by omega) (by omega) _

theorem dotRest_mac {i j p : Nat} (h : p < s.arg.k) (h8 : s.arg.k < p + 8) (v : Single) :
    s.dotRest i j p v = s.dotRest i j (p + 1) (fadd quietNan v (s.prodAt i j p)) := by
  unfold State.dotRest
  rw [dotFrom_fuel (f' := s.arg.k - p - 1 + 1) (by omega) (by omega), dotFrom, if_neg (by omega), if_pos h]
  exact dotFrom_fuel (by omega) (by omega) _

/-! ### Products -/

/-- A product is, as a value, the one DOT reads, whatever NaN was drawn for it. -/
theorem sameValue_product {i j p : Nat} {nan x : Single} (hn : Single.isNan nan = true) (h : product s i j p nan = some x) :
    sameValue x (s.prodAt i j p) = true := by
  obtain ⟨a, b, ha, hb, rfl⟩ := product_eq_some.mp h
  have hq : product s i j p quietNan = some (fmul quietNan a b) := product_eq_some.mpr ⟨a, b, ha, hb, rfl⟩
  rw [State.prodAt, hq]
  exact sameValue_fmul_nan hn quietNan_isNan a b

theorem sameValues_products {i j p : Nat} {xs : List Single} (h : products s (arithNan s.draws) i j p 0 8 = some xs) :
    SameValues xs (s.groupAt i j p) := by
  obtain ⟨hlen, hprod⟩ := products_eq_some h
  refine List.forall₂_iff_get.mpr ⟨by simp [hlen, State.groupAt], fun e he _ => ?_⟩
  have hx := hprod e (by omega)
  rw [List.getElem?_eq_getElem he, Nat.zero_add] at hx
  simpa [State.groupAt] using sameValue_product (arithNan_isNan _ _) hx

/-- Where no product is a NaN, the group of eight is exactly DOT's. -/
theorem products_eq_groupAt (hnan : ProductsNotNan s) {i j p : Nat} (hi : i < s.arg.m) (hj : j < s.arg.n) (hp : p + 8 ≤ s.arg.k)
    {xs : List Single} (h : products s (arithNan s.draws) i j p 0 8 = some xs) : xs = s.groupAt i j p := by
  refine eq_of_sameValues (sameValues_products h) fun y hy => ?_
  obtain ⟨q, hq, rfl⟩ := List.mem_map.mp hy
  rw [List.mem_range] at hq
  exact hnan i hi j hj (p + q) (by omega)

/-! ### What is stored -/

theorem stored_iff {i j : Nat} :
    s.stored i j = true ↔ i ∈ s.rowsDone ∨ ∃ j' p v, Worker.row i j' p v ∈ s.wk ∧ j < j' := by
  unfold State.stored
  rw [Bool.or_eq_true, decide_eq_true_eq, List.any_eq_true]
  refine or_congr_right ⟨?_, ?_⟩
  · rintro ⟨x, hx, hm⟩
    cases x with
    | idle => cases hm
    | row i' j' p v =>
      obtain ⟨rfl, hlt⟩ : i' = i ∧ j < j' := by simpa using hm
      exact ⟨j', p, v, hx, hlt⟩
  · rintro ⟨j', p, v, hx, hlt⟩
    exact ⟨_, hx, by simp [hlt]⟩

/-- After a worker's step an element stored was stored before, is of a row now done, or is one the worker has behind it. -/
theorem stored_setWorker {x : Worker} {pending done : List Nat} {cells : List Cell} {i j : Nat}
    (h : ({ s with rowsPending := pending, rowsDone := done, acc := cells }.setWorker x).stored i j = true) :
    s.stored i j = true ∨ i ∈ done ∨ ∃ j' p v, x = .row i j' p v ∧ j < j' := by
  obtain hd | ⟨j', p, v, hm, hlt⟩ := stored_iff.mp h
  · exact .inr (.inl hd)
  · obtain hm | hx := List.mem_or_eq_of_mem_set hm
    · exact .inl (stored_iff.mpr (.inr ⟨j', p, v, hm, hlt⟩))
    · exact .inr (.inr ⟨j', p, v, hx.symm, hlt⟩)

end Sys2Proof.Machine
end

section
/-! PROOFS. Every step keeps `EngineCorrect`: whatever the workers and the schedule, ACC becomes [DOT(i, j)]. -/

namespace Sys2Proof.Machine

variable {s t : State}

/-! ### Outside the multiply phase, and on to the answer -/

/-- The phases of which `EngineCorrect` speaks. -/
def Seq.multiplied : Seq → Bool
  | .join | .encode | .respondOk => true
  | _ => false

theorem multiplied_iff {x : Seq} : x.multiplied = true ↔ x = .join ∨ x = .encode ∨ x = .respondOk := by
  cases x <;> simp [Seq.multiplied]

/-- `EngineCorrect` says nothing of the other phases. -/
theorem EngineCorrect.outside (h : t.seq.multiplied = false) : EngineCorrect t := by
  have hn := mt multiplied_iff.mpr (Bool.eq_false_iff.mp h)
  exact ⟨fun hj => absurd (.inl hj) hn, fun hq => absurd hq hn⟩

/-- Past JOIN the elements stored stay, and no sum is running. -/
theorem EngineCorrect.moveOn (he : EngineCorrect s) (hq : s.seq = .join ∨ s.seq = .encode ∨ s.seq = .respondOk) {x : Seq}
    (hx : x ≠ .join) (m : Memory) : EngineCorrect { s with mem := m, seq := x } :=
  ⟨fun hj => absurd hj hx, fun _ => he.2 hq⟩

/-! ### The worker's steps -/

/-- A step within the worker's row that stores no element. -/
theorem EngineCorrect.setWorker (he : EngineCorrect s) (hj : s.seq = .join) {x : Worker} (hx : s.sumOk x = true) {pending done : List Nat}
    (hst : ∀ i j, j < s.arg.n → (i ∈ done ∨ ∃ j' p v, x = .row i j' p v ∧ j < j') → s.stored i j = true) :
    EngineCorrect ({ s with rowsPending := pending, rowsDone := done }.setWorker x) := by
  refine ⟨fun _ y hy => (List.mem_or_eq_of_mem_set hy).elim (he.1 hj y) (fun hyx => hyx ▸ hx), fun _ i hi j hjn hs => ?_⟩
  exact he.2 (.inl hj) i hi j hjn ((stored_setWorker hs).elim id (hst i j hjn))

/-- A step of the worker on its element: what is stored stays as it is. -/
theorem EngineCorrect.setSum (he : EngineCorrect s) (hj : s.seq = .join) {i j p p' : Nat} {v v' : Option Single}
    (hw : s.worker = some (.row i j p v)) (hx : s.sumOk (.row i j p' v') = true) : EngineCorrect (s.setWorker (.row i j p' v')) := by
  refine he.setWorker hj hx (fun a b _ hst => ?_)
  obtain hd | ⟨j', p'', v'', hrow, hlt⟩ := hst
  · exact stored_iff.mpr (.inl hd)
  · cases hrow
    exact stored_iff.mpr (.inr ⟨j, p, v, List.mem_of_getElem? hw, hlt⟩)

theorem EngineCorrect.execRowClaim (he : EngineCorrect s) (hj : s.seq = .join) (hx : execRowClaim s = .next t) : EngineCorrect t := by
  obtain ⟨-, ⟨-, rfl⟩ | ⟨-, i, -, rfl⟩⟩ := execRowClaim_next hx
  · exact he
  · refine he.setWorker hj rfl (fun a b _ hst => ?_)
    obtain hd | ⟨j', p, v, hrow, hlt⟩ := hst
    · exact stored_iff.mpr (.inl hd)
    · cases hrow
      exact absurd hlt (Nat.not_lt_zero b)

/-- An element just started is on its way to DOT. -/
theorem sumOk_start (i j : Nat) : s.sumOk (.row i j 0 (some Single.posZero)) = true := by
  rw [State.sumOk, State.dot, sameValue_refl]

theorem EngineCorrect.execElemInit (he : EngineCorrect s) (hj : s.seq = .join) (hx : execElemInit s = .next t) : EngineCorrect t := by
  obtain ⟨i, j, p, hw, -, rfl⟩ := execElemInit_next hx
  exact he.setSum hj hw (sumOk_start i j)

/-- The running sum of the worker at work is on its way to DOT. -/
theorem EngineCorrect.sum (he : EngineCorrect s) (hj : s.seq = .join) {i j p : Nat} {v : Single}
    (hw : s.worker = some (.row i j p (some v))) : sameValue (s.dotRest i j p v) (s.dot i j) = true :=
  he.1 hj _ (List.mem_of_getElem? hw)

/-- The group of eight under FREE forms no NaN of its own (spec/42 R152). -/
theorem combine_free (nan : Nat → Single) (v : Single) (ps : List Single) : combine .free nan v ps = Config.group8 v ps := rfl

/-- Finishing from GROUP8's sum gives, as a value, what finishing from the sum before gives (spec/42 R152, R164). -/
theorem sameValue_dotRest_group8 (hc : Consistent s) (hfree : s.cfg.sumOrder = .free → ProductsNotNan s) (hj : s.seq = .join)
    {i j p : Nat} {v : Single} (hw : s.worker = some (.row i j p (some v))) (hp : p + 8 ≤ s.arg.k) {ps : List Single}
    (hps : products s (arithNan s.draws) i j p 0 8 = some ps) :
    sameValue (s.dotRest i j (p + 8) (combine s.cfg.sumOrder (arithNan s.draws) v ps)) (s.dotRest i j p v) = true := by
  obtain ⟨hi, hjn, -, -⟩ := inRange_row_some.mp (hc.worker_inRange hj hw)
  rw [dotRest_group hp]
  by_cases ho : s.cfg.sumOrder = .free
  · rw [products_eq_groupAt (hfree ho) hi hjn hp hps, ho, combine_free, combine_free, sameValue_refl]
  · exact sameValue_dotFrom (fun hf => absurd hf ho)
      (sameValue_combine ho (arithNan_isNan _) (fun _ => quietNan_isNan) (sameValues_products hps) (sameValue_refl v)) _

theorem EngineCorrect.execGroup8 (hc : Consistent s) (hfree : s.cfg.sumOrder = .free → ProductsNotNan s) (he : EngineCorrect s)
    (hj : s.seq = .join) (hx : execGroup8 s = .next t) : EngineCorrect t := by
  obtain ⟨i, j, p, v, hw, hp, ⟨-, rfl⟩ | ⟨ps, hps, rfl⟩⟩ := execGroup8_next hx
  · exact he
  · exact he.setSum hj hw (sameValue_trans (sameValue_dotRest_group8 hc hfree hj hw hp hps) (he.sum hj hw))

theorem EngineCorrect.execMac1 (he : EngineCorrect s) (hj : s.seq = .join) (hx : execMac1 s = .next t) : EngineCorrect t := by
  obtain ⟨i, j, p, v, hw, hp, hp8, ⟨-, rfl⟩ | ⟨x, hpr, rfl⟩⟩ := execMac1_next hx
  · exact he
  · have hsum := he.sum hj hw
    rw [dotRest_mac hp hp8] at hsum
    have hadd := sameValue_fadd (arithNan_isNan s.draws 8) quietNan_isNan (sameValue_refl v) (sameValue_product (arithNan_isNan _ _) hpr)
    exact he.setSum hj hw (sameValue_trans (sameValue_dotFrom (fun _ => by omega) hadd _) hsum)

/-- Different elements have different cells. -/
theorem cell_injective {n i j a b : Nat} (hj : j < n) (hb : b < n) (h : a * n + b = i * n + j) : a = i ∧ b = j := by
  have hdiv := congrArg (· / n) h
  have hmod := congrArg (· % n) h
  simp only [Nat.mul_comm _ n, Nat.mul_add_div (Nat.zero_lt_of_lt hj), Nat.mul_add_mod, Nat.div_eq_of_lt hj, Nat.div_eq_of_lt hb,
    Nat.mod_eq_of_lt hj, Nat.mod_eq_of_lt hb] at hdiv hmod
  exact ⟨by omega, hmod⟩

theorem cell_lt {m n i j : Nat} (hi : i < m) (hj : j < n) : i * n + j < m * n := by
  calc i * n + j < i * n + n := by omega
    _ = (i + 1) * n := (Nat.succ_mul i n).symm
    _ ≤ m * n := Nat.mul_le_mul_right n hi

theorem EngineCorrect.execElemStore (hc : Consistent s) (he : EngineCorrect s) (hj : s.seq = .join) (hx : execElemStore s = .next t) :
    EngineCorrect t := by
  obtain ⟨i, j, p, v, hw, hp, rfl⟩ := execElemStore_next hx
  obtain ⟨hi, hjn, -, -⟩ := inRange_row_some.mp (hc.worker_inRange hj hw)
  obtain ⟨-, -, hacc⟩ := hc.storesAt (by simp [hj, Seq.allocated])
  have hv : sameValue v (s.dot i j) = true := by
    have hsum := he.sum hj hw
    rwa [State.dotRest, dotFrom_of_le hp] at hsum
  have hcell : i * s.arg.n + j < s.acc.length := hacc ▸ cell_lt hi hjn
  refine ⟨fun _ y hy => (List.mem_or_eq_of_mem_set hy).elim (he.1 hj y) (fun hyx => by rw [hyx]; rfl), fun _ a ha b hb hst => ?_⟩
  by_cases hab : a * s.arg.n + b = i * s.arg.n + j
  · obtain ⟨rfl, rfl⟩ := cell_injective hjn hb hab
    exact ⟨v, cellAt_set_same hcell _, hv⟩
  · have hold : s.stored a b = true := by
      obtain h | h | ⟨j', p', v', hrow, hlt⟩ := stored_setWorker hst
      · exact h
      · exact stored_iff.mpr (.inl h)
      · cases hrow
        have hne : b ≠ j := fun h => hab (by rw [h])
        exact stored_iff.mpr (.inr ⟨j, p, some v, List.mem_of_getElem? hw, by omega⟩)
    obtain ⟨w, hw', hdot⟩ := he.2 (.inl hj) a ha b hb hold
    exact ⟨w, (cellAt_set_other hab _).trans hw', hdot⟩

theorem EngineCorrect.execRowDone (he : EngineCorrect s) (hj : s.seq = .join) (hx : execRowDone s = .next t) : EngineCorrect t := by
  obtain ⟨i, j, p, hw, hn, rfl⟩ := execRowDone_next hx
  refine he.setWorker hj rfl (fun a b hb hst => ?_)
  obtain hd | ⟨_, _, _, hrow, -⟩ := hst
  · obtain hd | rfl := mem_insertNew.mp hd
    · exact stored_iff.mpr (.inl hd)
    · exact stored_iff.mpr (.inr ⟨j, p, none, List.mem_of_getElem? hw, by omega⟩)
  · cases hrow

theorem EngineCorrect.workerStep (hc : Consistent s) (hfree : s.cfg.sumOrder = .free → ProductsNotNan s) (he : EngineCorrect s)
    (hj : s.seq = .join) {i : Instr} (hi : i.ofWorker = true) (hx : exec i s = .next t) : EngineCorrect t := by
  cases i <;> cases hi
  case rowClaim => exact he.execRowClaim hj hx
  case elemInit => exact he.execElemInit hj hx
  case group8 => exact .execGroup8 hc hfree he hj hx
  case mac1 => exact he.execMac1 hj hx
  case elemStore => exact .execElemStore hc he hj hx
  case rowDone => exact he.execRowDone hj hx

/-! ### The sequencer -/

/-- A micro-operation of the sequencer leaves SEQ, raises a failure, or goes on to next(X) (spec/40 R112). -/
theorem exec_uop_seq {i : Instr} (hi : s.seq.uop = some i) (hx : exec i s = .next t) :
    t.seq = s.seq ∨ t.seq = .respondFail ∨ t.seq = nextSeq s.cfg.checkOrder s.seq := by
  cases hs : s.seq <;> rw [hs] at hi <;> cases hi
  case validateA =>
    cases hx
    obtain h | ⟨h, -⟩ | h := validate_cases s .validateA s.arg.aLen s.arg.m s.arg.k <;> simp [h, hs]
  case validateB =>
    cases hx
    obtain h | ⟨h, -⟩ | h := validate_cases s .validateB s.arg.bLen s.arg.k s.arg.n <;> simp [h, hs]
  case sizeOut =>
    replace hx := execSizeOut_eq.symm.trans hx
    split at hx <;> cases hx <;> simp
  case alloc =>
    obtain ⟨-, rfl⟩ | ⟨-, -, rfl⟩ | ⟨-, -, -, rfl⟩ | ⟨-, -, _, -, rfl⟩ := execAlloc_next hx
    · exact .inl hs
    · exact .inr (.inr rfl)
    · exact .inr (.inl rfl)
    · exact .inr (.inr rfl)
  case decodeA => obtain ⟨-, rfl⟩ := execDecodeA_next hx; simp
  case decodeB => obtain ⟨-, rfl⟩ := execDecodeB_next hx; simp
  case accClear => cases hx; simp
  case dispatch => cases hx; simp
  case join => obtain ⟨-, rfl⟩ | ⟨-, rfl⟩ := execJoin_next hx <;> simp [hs]
  case encode => obtain ⟨_, -, ⟨-, rfl⟩ | ⟨_, -, -, rfl⟩⟩ := execEncode_next hx <;> simp [hs]
  case respondOk => obtain ⟨_, -, rfl⟩ := execRespondOk_next hx; simp
  case respondFail => cases hx; simp [nextSeq]

theorem multiplied_nextSeq {o : CheckOrder} {x : Seq} (h : (nextSeq o x).multiplied = true) :
    x = .dispatch ∨ x = .join ∨ x = .encode := by
  revert h
  cases x <;> cases o <;> decide

theorem EngineCorrect.execDispatch (hc : Consistent s) (hs : s.seq = .dispatch) (hx : execDispatch s = .next t) : EngineCorrect t := by
  have hidle := hc.idleOutside (by simp [hs]) (by simp [hs])
  cases hx
  refine ⟨fun _ x hx => by rw [hidle x hx]; rfl, fun _ i _ j _ hst => ?_⟩
  obtain hd | ⟨_, _, _, hm, -⟩ := stored_iff.mp hst
  · cases hd
  · cases hidle _ hm

theorem EngineCorrect.execJoin (he : EngineCorrect s) (hs : s.seq = .join) (hx : execJoin s = .next t) : EngineCorrect t := by
  obtain ⟨-, rfl⟩ | ⟨-, rfl⟩ := execJoin_next hx
  · exact he.moveOn (x := .encode) (.inl hs) nofun s.mem
  · exact he

theorem EngineCorrect.execEncode (he : EngineCorrect s) (hs : s.seq = .encode) (hx : execEncode s = .next t) : EngineCorrect t := by
  obtain ⟨r, -, ⟨-, rfl⟩ | ⟨vs, -, -, rfl⟩⟩ := execEncode_next hx
  · exact he
  · exact he.moveOn (x := .respondOk) (.inr (.inl hs)) nofun _

theorem EngineCorrect.sequencerStep (hc : Consistent s) (he : EngineCorrect s) {i : Instr} (hi : s.seq.uop = some i)
    (hx : exec i s = .next t) : EngineCorrect t := by
  by_cases hq : s.seq = .dispatch ∨ s.seq = .join ∨ s.seq = .encode ∨ s.seq = .respondOk
  · obtain hs | hs | hs | hs := hq <;> rw [hs] at hi <;> cases hi
    · exact .execDispatch hc hs hx
    · exact he.execJoin hs hx
    · exact he.execEncode hs hx
    · obtain ⟨r, -, rfl⟩ := execRespondOk_next hx
      exact .outside rfl
  · refine .outside (Bool.eq_false_iff.mpr fun hm => hq ?_)
    obtain h | h | h := exec_uop_seq hi hx <;> rw [h] at hm
    · exact .inr (multiplied_iff.mp hm)
    · cases hm
    · obtain h | h | h := multiplied_nextSeq hm <;> simp [h]

/-! ### The host -/

theorem EngineCorrect.command {i : Instr} (he : EngineCorrect s) (hi : i = .multiply ∨ i = .ack) (hx : exec i s = .next t) :
    EngineCorrect t := by
  obtain rfl | rfl := hi
  · obtain ⟨-, rfl⟩ | ⟨-, -, rfl⟩ | ⟨-, rfl⟩ | ⟨-, -, rfl⟩ | ⟨-, -, g, -, -, -, rfl⟩ := execMultiply_next hx
    · exact he
    · exact he
    · exact he
    · exact he
    · refine .outside ?_
      simp only [State.startCall]
      cases s.cfg.checkOrder <;> rfl
  · obtain ⟨-, rfl⟩ | ⟨-, rfl⟩ := execAck_next hx
    · exact .outside rfl
    · exact he

theorem EngineCorrect.hostStep (he : EngineCorrect s) (hx : hostStep s = .next t) : EngineCorrect t := by
  have hp : EngineCorrect s.popHost := he
  obtain ⟨-, rfl⟩ | ⟨w, rest, -, ⟨e, -, rfl⟩ | ⟨i, hi, -, hx⟩⟩ | ⟨act, rest, -, -, hx⟩ := hostStep_next hx
  · exact he
  · exact hp
  · exact hp.command (decode_cmd32_ok hi) hx
  · obtain ⟨r, v, -, -, rfl⟩ | ⟨d, rfl⟩ | ⟨a, b, -, -, -, rfl⟩ | ⟨r, -, -, rfl⟩ | rfl := hostTouch_next hx <;> exact hp

/-! ### The operands stay -/

/-- DA, DB and ARG are as they were. -/
def SameOperands (s t : State) : Prop := t.da = s.da ∧ t.db = s.db ∧ t.arg = s.arg

theorem sameOperands_worker {i : Instr} (hi : i.ofWorker = true) (hx : exec i s = .next t) : SameOperands s t := by
  cases i <;> cases hi
  case rowClaim => obtain ⟨-, ⟨-, rfl⟩ | ⟨-, _, -, rfl⟩⟩ := execRowClaim_next hx <;> exact ⟨rfl, rfl, rfl⟩
  case elemInit => obtain ⟨_, _, _, -, -, rfl⟩ := execElemInit_next hx; exact ⟨rfl, rfl, rfl⟩
  case group8 => obtain ⟨_, _, _, _, -, -, ⟨-, rfl⟩ | ⟨_, -, rfl⟩⟩ := execGroup8_next hx <;> exact ⟨rfl, rfl, rfl⟩
  case mac1 => obtain ⟨_, _, _, _, -, -, -, ⟨-, rfl⟩ | ⟨_, -, rfl⟩⟩ := execMac1_next hx <;> exact ⟨rfl, rfl, rfl⟩
  case elemStore => obtain ⟨_, _, _, _, -, -, rfl⟩ := execElemStore_next hx; exact ⟨rfl, rfl, rfl⟩
  case rowDone => obtain ⟨_, _, _, -, -, rfl⟩ := execRowDone_next hx; exact ⟨rfl, rfl, rfl⟩

/-- From ACC_CLEAR to ENCODE. -/
theorem sameOperands_sequencer (hq : s.seq = .accClear ∨ s.seq = .dispatch ∨ s.seq = .join ∨ s.seq = .encode) {i : Instr}
    (hi : s.seq.uop = some i) (hx : exec i s = .next t) : SameOperands s t := by
  obtain hs | hs | hs | hs := hq <;> rw [hs] at hi <;> cases hi
  · cases hx; exact ⟨rfl, rfl, rfl⟩
  · cases hx; exact ⟨rfl, rfl, rfl⟩
  · obtain ⟨-, rfl⟩ | ⟨-, rfl⟩ := execJoin_next hx <;> exact ⟨rfl, rfl, rfl⟩
  · obtain ⟨_, -, ⟨-, rfl⟩ | ⟨_, -, -, rfl⟩⟩ := execEncode_next hx <;> exact ⟨rfl, rfl, rfl⟩

/-- While a call runs the host starts no other. -/
theorem sameOperands_host (hq : s.seq ≠ .idle) (hx : hostStep s = .next t) : SameOperands s t := by
  obtain ⟨-, rfl⟩ | ⟨w, rest, -, ⟨e, -, rfl⟩ | ⟨i, hi, -, hx⟩⟩ | ⟨act, rest, -, -, hx⟩ := hostStep_next hx
  · exact ⟨rfl, rfl, rfl⟩
  · exact ⟨rfl, rfl, rfl⟩
  · obtain rfl | rfl := decode_cmd32_ok hi
    · obtain ⟨-, rfl⟩ | ⟨h, -⟩ | ⟨h, -⟩ | ⟨h, -⟩ | ⟨h, -⟩ := execMultiply_next hx
      · exact ⟨rfl, rfl, rfl⟩
      all_goals exact absurd h hq
    · obtain ⟨-, rfl⟩ | ⟨-, rfl⟩ := execAck_next hx <;> exact ⟨rfl, rfl, rfl⟩
  · obtain ⟨_, _, -, -, rfl⟩ | ⟨_, rfl⟩ | ⟨_, _, -, -, -, rfl⟩ | ⟨_, -, -, rfl⟩ | rfl := hostTouch_next hx <;>
      exact ⟨rfl, rfl, rfl⟩

theorem sameOperands_step (hq : s.seq = .accClear ∨ s.seq = .dispatch ∨ s.seq = .join ∨ s.seq = .encode) (hx : step s = .next t) :
    SameOperands s t := by
  have hq' : s.tick.seq ≠ .idle := fun h => by simp [show s.seq = .idle from h] at hq
  suffices SameOperands s.tick t from this
  obtain ⟨-, -, -, rfl⟩ | ⟨-, hx⟩ | ⟨-, -, -, i, hi, hx⟩ | ⟨-, -, -, rfl⟩ | ⟨w, i, -, -, -, -, hi, hx⟩ := step_next hx
  · exact ⟨rfl, rfl, rfl⟩
  · exact sameOperands_host hq' hx
  · exact sameOperands_sequencer hq hi hx
  · exact ⟨rfl, rfl, rfl⟩
  · exact sameOperands_worker (s := { s.tick with cur := w }) (workerStep_ofWorker hi) hx

/-! ### The statement -/

theorem EngineCorrect.step (hc : Consistent s) (hfree : s.cfg.sumOrder = .free → ProductsNotNan s) (he : EngineCorrect s)
    (hx : step s = .next t) : EngineCorrect t := by
  have htick : Consistent s.tick := { hc with }
  obtain ⟨-, -, -, rfl⟩ | ⟨-, hx⟩ | ⟨-, -, -, i, hi, hx⟩ | ⟨-, -, -, rfl⟩ | ⟨w, i, -, -, hj, -, hi, hx⟩ := step_next hx
  · exact he
  · exact EngineCorrect.hostStep (s := s.tick) he hx
  · exact .sequencerStep htick he hi hx
  · exact .outside rfl
  · have hcur : Consistent { s.tick with cur := w } := { htick with }
    exact .workerStep hcur hfree he hj (workerStep_ofWorker hi) hx

/-- Past JOIN every row is done, so every element is stored. -/
theorem Consistent.stored_of_multiplied (hc : Consistent s) (hq : s.seq = .encode ∨ s.seq = .respondOk) {i : Nat} (hi : i < s.arg.m)
    (j : Nat) : s.stored i j = true :=
  stored_iff.mpr (.inl ((hc.poolAfter hq).2.mem_iff.mpr (List.mem_range.mpr hi)))

/-- Settles O55: every running sum stays on its way to DOT, and past JOIN every element is stored. -/
theorem stepKeepsEngineCorrect : Obligations.StepKeepsEngineCorrect :=
  ⟨fun _ _ hc hfree he hx => he.step hc hfree hx, fun _ _ hq hx => sameOperands_step hq hx,
    fun _ hc he hq i hi j hj => he.2 (.inr hq) i hi j hj (hc.stored_of_multiplied hq hi j)⟩

end Sys2Proof.Machine
end

section
/-! PROOFS. The agents: which are ready, which one moves, and that its step is the instruction it has before it. -/

namespace Sys2Proof.Machine

variable {s t : State}

/-- The host is ready when it has an interaction left that is not a WAIT DONE outside DONE (spec/30 R102). -/
theorem hostReady_iff : s.hostReady = true ↔ ∃ act rest, s.host = act :: rest ∧ (act = .waitDone → s.seq = .done) := by
  unfold State.hostReady
  cases s.host with
  | nil => simp
  | cons act rest => cases act <;> simp

theorem sequencerReady_iff :
    s.sequencerReady = true ↔ s.seq ≠ .idle ∧ s.seq ≠ .done ∧ (s.seq = .join → ∀ i, i ∈ s.rowsDone ↔ i < s.arg.m) := by
  simp [State.sequencerReady, Seq.uop_isSome_iff, isAllRows_iff, and_assoc, imp_iff_not_or]

theorem otherReady_iff :
    s.otherReady = true ↔ s.cfg.admitOther = true ∧ s.seq ≠ .idle ∧ s.seq ≠ .done ∧ s.seq ≠ .respondFail := by
  simp [State.otherReady, Seq.uop_isSome_iff, and_assoc]

/-- A worker is ready in the multiply phase, unless it is idle and no row is pending (spec/42 R165). -/
theorem workerReady_iff {w : Nat} :
    s.workerReady w = true ↔ s.seq = .join ∧ ∃ x, s.wk[w]? = some x ∧ (x = .idle → s.rowsPending ≠ []) := by
  unfold State.workerReady
  rw [Bool.and_eq_true, decide_eq_true_eq]
  refine and_congr_right fun hj => ?_
  unfold workerStep
  split <;> simp_all

theorem worker_lt_of_ready {w : Nat} (h : s.workerReady w = true) : w < s.wk.length := by
  obtain ⟨-, x, hx, -⟩ := workerReady_iff.mp h
  exact (List.getElem?_eq_some_iff.mp hx).1

/-- The host is among the agents when it is ready; an agent of the block when, besides, no model fault is recorded (spec/60 R212). -/
theorem host_mem_agents : .host ∈ s.agents ↔ s.hostReady = true := by
  have := host_not_blockAgent s
  unfold State.agents
  split <;> simp_all

theorem sequencer_mem_agents : .sequencer ∈ s.agents ↔ s.faults = [] ∧ s.sequencerReady = true := by
  unfold State.agents State.blockAgents
  by_cases hf : s.faults = [] <;> split_ifs <;> simp_all

theorem other_mem_agents : .other ∈ s.agents ↔ s.faults = [] ∧ s.otherReady = true := by
  unfold State.agents State.blockAgents
  by_cases hf : s.faults = [] <;> split_ifs <;> simp_all

theorem worker_mem_agents {w : Nat} : .worker w ∈ s.agents ↔ s.faults = [] ∧ s.workerReady w = true := by
  have := worker_lt_of_ready (s := s) (w := w)
  unfold State.agents State.blockAgents
  by_cases hf : s.faults = [] <;> split_ifs <;> simp_all

/-- Settles O5: an agent is in the list when its own condition holds and, for the block's, no model fault is recorded. -/
theorem readyAgentsAreTheEnabledOnes : Obligations.ReadyAgentsAreTheEnabledOnes := fun _ =>
  ⟨host_mem_agents.trans hostReady_iff, sequencer_mem_agents.trans (and_congr_right fun _ => sequencerReady_iff),
    other_mem_agents.trans (and_congr_right fun _ => otherReady_iff),
    fun _ => worker_mem_agents.trans (and_congr_right fun _ => workerReady_iff)⟩

/-- The choice of the agent does not change which agents are ready, and an agent's place in their list is a choice that picks it. -/
theorem mover_idxOf {g : Agent} (h : g ∈ s.agents) : { s with pick := s.agents.idxOf g }.mover = some g := by
  have hlt := List.idxOf_lt_length_iff.mpr h
  calc { s with pick := s.agents.idxOf g }.mover = s.agents[s.agents.idxOf g % s.agents.length]? := rfl
    _ = s.agents[s.agents.idxOf g]? := by rw [Nat.mod_eq_of_lt hlt]
    _ = some g := List.getElem?_idxOf h

/-- Settles O6: the place of a ready agent in the list of ready ones is the choice that makes it move. -/
theorem anyReadyAgentMayMove : Obligations.AnyReadyAgentMayMove :=
  ⟨fun s g h => ⟨s.agents.idxOf g, mover_idxOf h⟩, fun _ _ => mover_mem, fun _ => agents_of_mover_none⟩

/-! ### The step of an agent -/

/-- The host's step on a command word that decodes, with no model fault recorded. -/
theorem step_of_command {w : BitVec 32} {rest : List HostAction} {i : Instr} (hm : s.mover = some .host) (hq : s.host = .cmd w :: rest)
    (hf : s.faults = []) (hd : decode (.cmd32 w) = .ok i) : step s = exec i { s.tick with host := rest } := by
  have hpop : s.tick.popHost = { s.tick with host := rest } := by simp [State.popHost, hq]
  rw [step_of_mover hm, runAgent, hostStep, State.tick_host, hq]
  simp only [writeCmd, hd, hpop, State.tick_faults, hf]

/-- The host's step on any other interaction. -/
theorem step_of_touch {act : HostAction} {rest : List HostAction} (hm : s.mover = some .host) (hq : s.host = act :: rest)
    (hne : ∀ w, act ≠ .cmd w) : step s = hostTouch { s.tick with host := rest } act := by
  have hpop : s.tick.popHost = { s.tick with host := rest } := by simp [State.popHost, hq]
  rw [step_of_mover hm, runAgent, hostStep, State.tick_host, hq, ← hpop]
  cases act with
  | cmd w => exact absurd rfl (hne w)
  | _ => rfl

/-- Settles O4: the agent that moves runs, on the ticked state, the instruction it has before it. -/
theorem stepPerformsTheInstruction : Obligations.StepPerformsTheInstruction := by
  refine ⟨fun _ _ _ _ => step_of_command, fun s i hm hi => ?_, fun s w i hm hi => ?_⟩
  · rw [step_of_mover hm, runAgent, State.tick_seq, hi]
  · rw [step_of_mover hm, runAgent, tick_agents_workerStep, hi]

end Sys2Proof.Machine
end

section
/-! PROOFS. What every step carries over, what the host's interactions do, and that the operand registers reach MULTIPLY alone. -/

namespace Sys2Proof.Machine

variable {s t : State}

/-! ### The parameters, the marks and the operand registers -/

/-- The parameters are the same, and every mark recorded is still recorded (spec/10 R48). -/
structure Carries (s t : State) : Prop where
  cfg : t.cfg = s.cfg
  faults : ∀ k ∈ s.faults, k ∈ t.faults
  refusals : ∀ r ∈ s.refusals, r ∈ t.refusals

theorem Carries.of_eq (hc : t.cfg = s.cfg) (hf : t.faults = s.faults) (hr : t.refusals = s.refusals) : Carries s t :=
  ⟨hc, fun _ h => hf ▸ h, fun _ h => hr ▸ h⟩

theorem carries_self (s : State) : Carries s s := .of_eq rfl rfl rfl

theorem carries_raiseFault (s : State) (k : FaultKind) : Carries s (s.raiseFault k) :=
  ⟨rfl, fun _ h => mem_insertNew.mpr (.inl h), fun _ h => h⟩

theorem carries_refuse (s : State) (r : RefuseReason) : Carries s (s.refuse r) :=
  ⟨rfl, fun _ h => h, fun _ h => mem_insertNew.mpr (.inl h)⟩

theorem carries_release (s : State) : Carries s s.release ∧ s.release.regs = s.regs := by
  unfold State.release
  split
  · exact ⟨carries_self s, rfl⟩
  · exact ⟨.of_eq rfl rfl rfl, rfl⟩

theorem validate_carries (here : Seq) (len rows cols : Nat) :
    Carries s (s.validate here len rows cols) ∧ (s.validate here len rows cols).regs = s.regs := by
  obtain h | ⟨h, -⟩ | h := validate_cases s here len rows cols <;> rw [h]
  · exact ⟨carries_raiseFault s _, rfl⟩
  · exact ⟨.of_eq rfl rfl rfl, rfl⟩
  · exact ⟨.of_eq rfl rfl rfl, rfl⟩

/-- Every instruction carries parameters and marks over, and none changes an operand register. -/
theorem exec_carries {i : Instr} (hx : exec i s = .next t) : Carries s t ∧ t.regs = s.regs := by
  cases i with
  | multiply =>
    obtain ⟨-, rfl⟩ | ⟨-, -, rfl⟩ | ⟨-, rfl⟩ | ⟨-, -, rfl⟩ | ⟨-, -, _, -, -, -, rfl⟩ := execMultiply_next hx
    · exact ⟨carries_refuse s _, rfl⟩
    · exact ⟨carries_raiseFault s _, rfl⟩
    · exact ⟨carries_refuse s _, rfl⟩
    · exact ⟨carries_self _, rfl⟩
    · exact ⟨.of_eq rfl rfl rfl, rfl⟩
  | ack =>
    obtain ⟨-, rfl⟩ | ⟨-, rfl⟩ := execAck_next hx
    · exact ⟨.of_eq rfl rfl rfl, rfl⟩
    · exact ⟨carries_refuse s _, rfl⟩
  | validateA => cases hx; exact validate_carries _ _ _ _
  | validateB => cases hx; exact validate_carries _ _ _ _
  | sizeOut =>
    replace hx := execSizeOut_eq.symm.trans hx
    split at hx <;> cases hx <;> exact ⟨.of_eq rfl rfl rfl, rfl⟩
  | alloc =>
    obtain ⟨-, rfl⟩ | ⟨-, -, rfl⟩ | ⟨-, -, -, rfl⟩ | ⟨-, -, _, -, rfl⟩ := execAlloc_next hx
    · exact ⟨carries_raiseFault s _, rfl⟩
    all_goals exact ⟨.of_eq rfl rfl rfl, rfl⟩
  | decodeA => obtain ⟨-, rfl⟩ := execDecodeA_next hx; exact ⟨.of_eq rfl rfl rfl, rfl⟩
  | decodeB => obtain ⟨-, rfl⟩ := execDecodeB_next hx; exact ⟨.of_eq rfl rfl rfl, rfl⟩
  | accClear => cases hx; exact ⟨.of_eq rfl rfl rfl, rfl⟩
  | dispatch => cases hx; exact ⟨.of_eq rfl rfl rfl, rfl⟩
  | join => obtain ⟨-, rfl⟩ | ⟨-, rfl⟩ := execJoin_next hx <;> exact ⟨.of_eq rfl rfl rfl, rfl⟩
  | encode =>
    obtain ⟨_, -, ⟨-, rfl⟩ | ⟨_, -, -, rfl⟩⟩ := execEncode_next hx
    · exact ⟨carries_raiseFault s _, rfl⟩
    · exact ⟨.of_eq rfl rfl rfl, rfl⟩
  | respondOk => obtain ⟨_, -, rfl⟩ := execRespondOk_next hx; exact ⟨.of_eq rfl rfl rfl, rfl⟩
  | respondFail =>
    obtain ⟨hc, hg⟩ := carries_release s
    cases hx
    exact ⟨⟨hc.cfg, hc.faults, hc.refusals⟩, hg⟩
  | rowClaim => obtain ⟨-, ⟨-, rfl⟩ | ⟨-, _, -, rfl⟩⟩ := execRowClaim_next hx <;> exact ⟨.of_eq rfl rfl rfl, rfl⟩
  | elemInit => obtain ⟨_, _, _, -, -, rfl⟩ := execElemInit_next hx; exact ⟨.of_eq rfl rfl rfl, rfl⟩
  | group8 =>
    obtain ⟨_, _, _, _, -, -, ⟨-, rfl⟩ | ⟨_, -, rfl⟩⟩ := execGroup8_next hx
    · exact ⟨carries_raiseFault s _, rfl⟩
    · exact ⟨.of_eq rfl rfl rfl, rfl⟩
  | mac1 =>
    obtain ⟨_, _, _, _, -, -, -, ⟨-, rfl⟩ | ⟨_, -, rfl⟩⟩ := execMac1_next hx
    · exact ⟨carries_raiseFault s _, rfl⟩
    · exact ⟨.of_eq rfl rfl rfl, rfl⟩
  | elemStore => obtain ⟨_, _, _, _, -, -, rfl⟩ := execElemStore_next hx; exact ⟨.of_eq rfl rfl rfl, rfl⟩
  | rowDone => obtain ⟨_, _, _, -, -, rfl⟩ := execRowDone_next hx; exact ⟨.of_eq rfl rfl rfl, rfl⟩

/-- So does every interaction of the host; only a register write changes an operand register. -/
theorem hostStep_carries (hx : hostStep s = .next t) :
    Carries s t ∧ (t.regs = s.regs ∨ ∃ r v rest, s.host = .wr r v :: rest ∧ t.regs = s.regs.set r v) := by
  obtain ⟨-, rfl⟩ | ⟨w, rest, -, ⟨e, -, rfl⟩ | ⟨i, -, -, hx⟩⟩ | ⟨act, rest, hq, -, hx⟩ := hostStep_next hx
  · exact ⟨carries_self _, .inl rfl⟩
  · obtain ⟨hc, hf, hr⟩ := carries_refuse s.popHost .reservedCmd
    exact ⟨⟨hc, hf, hr⟩, .inl rfl⟩
  · obtain ⟨⟨hc, hf, hr⟩, hg⟩ := exec_carries hx
    exact ⟨⟨hc, hf, hr⟩, .inl hg⟩
  · obtain ⟨r, v, rfl, -, rfl⟩ | ⟨_, rfl⟩ | ⟨_, _, -, -, -, rfl⟩ | ⟨_, -, -, rfl⟩ | rfl := hostTouch_next hx
    · exact ⟨.of_eq rfl rfl rfl, .inr ⟨r, v, rest, hq, rfl⟩⟩
    all_goals exact ⟨.of_eq rfl rfl rfl, .inl rfl⟩

theorem step_carries (hx : step s = .next t) :
    Carries s t ∧ (t.regs = s.regs ∨ ∃ r v rest, s.mover = some .host ∧ s.host = .wr r v :: rest ∧ t.regs = s.regs.set r v) := by
  obtain ⟨-, -, -, rfl⟩ | ⟨hm, hx⟩ | ⟨-, -, -, i, -, hx⟩ | ⟨-, -, -, rfl⟩ | ⟨w, i, -, -, -, -, -, hx⟩ := step_next hx
  · exact ⟨carries_self _, .inl rfl⟩
  · obtain ⟨⟨hc, hf, hr⟩, hg⟩ := hostStep_carries hx
    exact ⟨⟨hc, hf, hr⟩, hg.imp_right fun ⟨r, v, rest, hq, hset⟩ => ⟨r, v, rest, hm, hq, hset⟩⟩
  · obtain ⟨⟨hc, hf, hr⟩, hg⟩ := exec_carries hx
    exact ⟨⟨hc, hf, hr⟩, .inl hg⟩
  · exact ⟨.of_eq rfl rfl rfl, .inl rfl⟩
  · obtain ⟨⟨hc, hf, hr⟩, hg⟩ := exec_carries hx
    exact ⟨⟨hc, hf, hr⟩, .inl hg⟩

theorem refused_iff : s.refused = true ↔ ∃ r, r ∈ s.refusals := by
  simp [State.refused, List.eq_nil_iff_forall_not_mem]

/-- Settles O17: marks are only ever added. -/
theorem marksAreSticky : Obligations.MarksAreSticky := by
  intro s t hx
  obtain ⟨-, hf, hr⟩ := (step_carries hx).1
  exact ⟨hf, hr, fun h => refused_iff.mpr ((refused_iff.mp h).imp hr)⟩

/-! ### The host's interactions -/

theorem le_sizeMax_of_lt {c : Config} {v : Nat} (h : v < 2 ^ c.sizeW) : v ≤ c.sizeMax := Nat.le_sub_one_of_lt h

theorem busy_eq_false (h : s.seq = .idle ∨ s.seq = .done) : s.busy = false := by
  obtain h | h := h <;> simp [State.busy, Seq.phase, h]

/-- Settles O10: each of the host's writes runs to the state named, and only a register write reaches a register. -/
theorem onlyTheHostWritesOperandRegisters : Obligations.OnlyTheHostWritesOperandRegisters := by
  refine ⟨fun s r v rest hm hq hv => ?_, fun s act rest hm hq hact => ?_, fun s a b rest hm hq ha hin hout => ?_, fun s t hx => ?_⟩
  · refine ⟨s.regs.set r v, ?_, get_set_same _ _ _, fun q hne => get_set_other _ hne v⟩
    rw [step_of_touch hm hq nofun]
    exact if_pos (le_sizeMax_of_lt hv)
  · obtain rfl | ⟨v, rfl⟩ := hact <;> exact step_of_touch hm hq nofun
  · have hp : State.protects { s.tick with host := rest } a = false := by
      refine protects_eq_false ?_ hout
      obtain h | h | h := hin
      · exact .inl (busy_eq_false (.inl h))
      · exact .inl (busy_eq_false (.inr h))
      · exact .inr h
    refine ⟨Memory.write a b s.mem, ?_, Memory.byteAt_write_same _ _ _, fun x hne => Memory.byteAt_write_other hne _ _⟩
    rw [step_of_touch hm hq nofun]
    simp only [hostTouch, hp]
    exact if_neg (Nat.not_le.mpr ha)
  · obtain ⟨hc, hg⟩ := step_carries hx
    exact ⟨hc.cfg, hg⟩

/-- Settles O11: a read gives what the register or the byte holds, by the cases of `readReg` and `peekByte`. -/
theorem hostReadsTheRegisters : Obligations.HostReadsTheRegisters := by
  refine ⟨fun s r rest hm hq => ?_, fun s a rest hm hq ha => ?_⟩
  · refine ⟨State.readReg { s.tick with host := rest } r, step_of_touch hm hq nofun, ?_, ?_, ?_, ?_, ?_, ?_, ?_⟩
    · rintro rfl; rfl
    · rintro rfl; rfl
    · rintro rfl hd; simp [State.readReg, hd]
    · rintro rfl hd; simp [State.readReg, hd]
    · rintro rfl hd hc; simp [State.readReg, hd, hc, codeOther]
    · rintro rfl hno; exact congrArg ReadData.text (if_neg (not_and_or.mpr hno))
    · rintro q v rfl hv; simp [State.readReg, hv]
  · refine ⟨State.peekByte { s.tick with host := rest } a, ?_, fun h => peekByte_eq h⟩
    rw [step_of_touch hm hq nofun]
    exact if_neg (Nat.not_le.mpr ha)

/-! ### The registers reach MULTIPLY alone -/

section WithRegs

variable (r : OperandRegs) (s : State)

/-- A change of one part of the state goes into both branches of a choice. -/
theorem mapNext_ite (f : State → State) (c : Prop) [Decidable c] (a b : Host.Outcome State Fault Refusal) :
    mapNext f (if c then a else b) = if c then mapNext f a else mapNext f b := apply_ite (mapNext f) c a b

theorem product_withRegs (i j p : Nat) (nan : Single) : product (s.withRegs r) i j p nan = product s i j p nan := rfl

theorem products_withRegs (nan : Nat → Single) (i j p q cnt : Nat) :
    products (s.withRegs r) nan i j p q cnt = products s nan i j p q cnt := by
  induction cnt generalizing q with
  | zero => rfl
  | succ cnt ih => simp only [products, product_withRegs, ih]

theorem validate_withRegs (here : Seq) (len rows cols : Nat) :
    (s.withRegs r).validate here len rows cols = (s.validate here len rows cols).withRegs r := by
  unfold State.validate
  rw [apply_ite (State.withRegs r), apply_ite (State.withRegs r)]
  rfl

theorem release_withRegs : (s.withRegs r).release = s.release.withRegs r := by
  unfold State.release
  rw [show (s.withRegs r).out = s.out from rfl]
  cases s.out <;> rfl

/-- Every instruction but MULTIPLY runs the same branch on the same values, whatever the registers hold. -/
theorem exec_withRegs {i : Instr} (hi : i ≠ .multiply) : exec i (s.withRegs r) = mapNext (State.withRegs r) (exec i s) := by
  cases i with
  | multiply => exact absurd rfl hi
  | ack =>
    simp only [exec, execAck, mapNext_ite]
    rfl
  | validateA => exact congrArg Host.Outcome.next (validate_withRegs r s _ _ _ _)
  | validateB => exact congrArg Host.Outcome.next (validate_withRegs r s _ _ _ _)
  | sizeOut =>
    simp only [exec, execSizeOut_eq, mapNext_ite]
    rfl
  | alloc =>
    simp only [exec, execAlloc, mapNext_ite]
    rw [show (s.withRegs r).request (s.withRegs r).outReq = s.request s.outReq from rfl]
    cases s.request s.outReq <;> rfl
  | decodeA =>
    simp only [exec, execDecodeA, mapNext_ite]
    rfl
  | decodeB =>
    simp only [exec, execDecodeB, mapNext_ite]
    rfl
  | accClear => rfl
  | dispatch => rfl
  | join =>
    simp only [exec, execJoin, mapNext_ite]
    rfl
  | encode =>
    simp only [exec, execEncode]
    rw [show (s.withRegs r).out = s.out from rfl]
    cases s.out with
    | none => rfl
    | some q =>
      rw [show readCells (s.withRegs r).acc ((s.withRegs r).arg.m * (s.withRegs r).arg.n) = readCells s.acc (s.arg.m * s.arg.n) from rfl]
      cases readCells s.acc (s.arg.m * s.arg.n) with
      | none => rfl
      | some vs =>
        simp only [mapNext_ite]
        rfl
  | respondOk =>
    simp only [exec, execRespondOk]
    rw [show (s.withRegs r).out = s.out from rfl]
    cases s.out <;> rfl
  | respondFail =>
    simp only [exec, execRespondFail, release_withRegs]
    rfl
  | rowClaim =>
    simp only [exec, execRowClaim]
    rw [show (s.withRegs r).worker = s.worker from rfl, show (s.withRegs r).chosenRow = s.chosenRow from rfl]
    match s.worker with
    | none | some (.row ..) => rfl
    | some .idle =>
      simp only [mapNext_ite]
      cases s.chosenRow <;> rfl
  | elemInit =>
    simp only [exec, execElemInit]
    rw [show (s.withRegs r).worker = s.worker from rfl]
    match s.worker with
    | none | some .idle => rfl
    | some (.row i j p v) =>
      simp only [mapNext_ite]
      rfl
  | group8 =>
    simp only [exec, execGroup8, products_withRegs]
    rw [show (s.withRegs r).worker = s.worker from rfl, show (s.withRegs r).draws = s.draws from rfl]
    match s.worker with
    | none | some .idle | some (.row _ _ _ none) => rfl
    | some (.row i j p (some v)) =>
      simp only [mapNext_ite]
      cases products s (arithNan s.draws) i j p 0 8 <;> rfl
  | mac1 =>
    simp only [exec, execMac1, product_withRegs]
    rw [show (s.withRegs r).worker = s.worker from rfl, show (s.withRegs r).draws = s.draws from rfl]
    match s.worker with
    | none | some .idle | some (.row _ _ _ none) => rfl
    | some (.row i j p (some v)) =>
      simp only [mapNext_ite]
      cases product s i j p (arithNan s.draws 0) <;> rfl
  | elemStore =>
    simp only [exec, execElemStore]
    rw [show (s.withRegs r).worker = s.worker from rfl]
    match s.worker with
    | none | some .idle | some (.row _ _ _ none) => rfl
    | some (.row i j p (some v)) =>
      simp only [mapNext_ite]
      rfl
  | rowDone =>
    simp only [exec, execRowDone]
    rw [show (s.withRegs r).worker = s.worker from rfl]
    match s.worker with
    | none | some .idle | some (.row _ _ _ (some _)) => rfl
    | some (.row i j p none) =>
      simp only [mapNext_ite]
      rfl

end WithRegs

/-- Settles O18: no instruction but MULTIPLY reads a register. -/
theorem registersDoNotReachTheRunningCall : Obligations.RegistersDoNotReachTheRunningCall :=
  fun _ s r hi => exec_withRegs r s hi

end Sys2Proof.Machine
end

section
/-! PROOFS. STATUS, reset, the two commands, and what an instruction does without its operands. -/

namespace Sys2Proof.Machine

variable {s t : State}

/-! ### STATUS -/

theorem phase_toNat (x : Seq) : x.phase.toNat = if x = .idle then 0 else if x = .done then 2 else 1 := by cases x <;> rfl

/-- A concatenation's value: the right part, and the left one shifted past it. -/
theorem toNat_append_add {m n : Nat} (x : BitVec m) (y : BitVec n) : (x ++ y).toNat = x.toNat * 2 ^ n + y.toNat := by
  rw [BitVec.toNat_append, ← Nat.shiftLeft_add_eq_or_of_lt y.isLt, Nat.shiftLeft_eq]

/-- STATUS is PHASE and, from bit 8 on, CODE (spec/10 R36). -/
theorem status_toNat (s : State) : s.status.toNat = s.seq.phase.toNat + 256 * s.code.toNat := by
  simp only [State.status, toNat_append_add, BitVec.ofNat_eq_ofNat, BitVec.toNat_zero]
  omega

/-- Settles O12: the fields of STATUS are read off its value. -/
theorem statusShowsPhaseAndCode : Obligations.StatusShowsPhaseAndCode := by
  intro s
  have hp := s.seq.phase.isLt
  have hc := s.code.isLt
  have h := status_toNat s
  have hfield (start len : Nat) : (s.status.extractLsb' start len).toNat =
      (s.seq.phase.toNat + 256 * s.code.toNat) / 2 ^ start % 2 ^ len := by
    rw [BitVec.extractLsb'_toNat, h, Nat.shiftRight_eq_div_pow]
  refine ⟨by rw [h, phase_toNat], ?_, ?_, ?_⟩ <;> apply BitVec.eq_of_toNat_eq <;> rw [hfield]
  · omega
  · change _ = 0; omega
  · change _ = 0; omega

theorem status_eq_zero (hs : s.seq = .idle) (hc : s.code = 0) : s.status = 0 := by
  simp [State.status, hs, hc, Seq.phase]

/-! ### Reset -/

/-- Settles O13: the reset table, field by field; with no interaction and SEQ idle no agent is ready. -/
theorem resetLeavesTheTable : Obligations.ResetLeavesTheTable := by
  intro c
  refine ⟨fun r => by cases r <;> rfl, status_eq_zero rfl rfl, rfl, rfl, rfl, rfl, rfl, rfl, rfl, rfl, rfl, rfl, rfl, rfl, fun _ => rfl,
    fun g hg => ?_⟩
  cases g with
  | host => exact absurd (host_mem_agents.mp hg) Bool.false_ne_true
  | sequencer => exact (sequencerReady_iff.mp (sequencer_mem_agents.mp hg).2).1 rfl
  | other => exact (otherReady_iff.mp (other_mem_agents.mp hg).2).2.1 rfl
  | worker w => exact absurd (workerReady_iff.mp (worker_mem_agents.mp hg).2).1 (by simp [State.resetWith])

theorem reset_consistent {c : Config} (hc : c.wf) : Consistent (State.resetWith c) := by
  refine .ofEarly ⟨hc, ⟨rfl, nofun⟩, ?_, ?_, ?_, ⟨List.nodup_nil, List.nodup_nil⟩, Nat.zero_le _, Nat.zero_le _, rfl,
    by simp [State.resetWith]⟩ (by simp [State.resetWith, Early, Seq.allocated])
    ⟨rfl, rfl, rfl, ⟨rfl, rfl, rfl⟩, fun x => List.eq_of_mem_replicate, rfl, rfl⟩
    nofun nofun nofun
  · simp [State.resetWith, OperandRegs.unset, fits]
  · simp [State.resetWith, Arg.zero]
  · simp [State.resetWith, Arg.zero, inRange_iff, Arg.bufferA, Arg.bufferB]

theorem reset_cleanEntry (c : Config) : (State.resetWith c).cleanEntry :=
  ⟨rfl, rfl, rfl, rfl, rfl, rfl, rfl, rfl, rfl, fun _ => List.eq_of_mem_replicate, status_eq_zero rfl rfl, rfl⟩

/-- Settles O14: a state that holds nothing is consistent, and reset is one. -/
theorem resetIsConsistent : Obligations.ResetIsConsistent :=
  ⟨fun c hc => ⟨reset_consistent hc, reset_cleanEntry c⟩, reset_consistent (by decide)⟩

/-! ### The commands -/

/-- A consistent state in IDLE with no mark recorded is a clean entry (spec/70 R232). -/
theorem Consistent.cleanEntry (h : Consistent s) (hs : s.seq = .idle) (hm : s.unmarked = true) : s.cleanEntry := by
  obtain ⟨hf, hr⟩ := unmarked_iff.mp hm
  have hu := h.unheld (by simp [hs, Early, Seq.allocated])
  obtain ⟨hA, hB, hC⟩ := hu.stores
  exact ⟨hs, hf, hr, hu.out, hA, hB, hC, hu.pending, hu.rowsDone, hu.idle, status_eq_zero hs hu.code, hu.msg⟩

/-- Settles O16: MULTIPLY leaves IDLE from a clean entry alone, and ACK at DONE ends in a consistent IDLE state without marks. -/
theorem ackRestoresCleanEntry : Obligations.AckRestoresCleanEntry := by
  refine ⟨fun s t h hs hx hne => ?_, fun s h hfin => ?_⟩
  · obtain ⟨hn, -⟩ | ⟨-, -, rfl⟩ | ⟨-, rfl⟩ | ⟨-, -, rfl⟩ | ⟨-, hm, -⟩ := execMultiply_next hx
    · exact absurd hs hn
    · exact absurd hs hne
    · exact absurd hs hne
    · exact absurd hs hne
    · exact h.cleanEntry hs hm
  · obtain ⟨hs, hf, hr⟩ := hfin
    have hx : exec .ack s = .next s.endCall := if_pos hs
    have hc : Consistent s.endCall := h.execAck hx
    exact ⟨s.endCall, hx, hc.cleanEntry rfl (unmarked_iff.mpr ⟨hf, hr⟩), rfl, rfl, rfl, rfl, rfl⟩

/-- Settles O21: the accepting path of MULTIPLY. -/
theorem multiplyStartsTheCall : Obligations.MultiplyStartsTheCall := by
  intro s aBase aLen bBase bLen m n k hs hf hr hregs hA hB
  have hl : s.regs.latch = some ⟨aBase, aLen, bBase, bLen, m, n, k⟩ := latch_eq_some.mpr hregs
  have hin : (Region.inRange ⟨aBase, aLen⟩ s.cfg && Region.inRange ⟨bBase, bLen⟩ s.cfg) = true :=
    Bool.and_eq_true_iff.mpr ⟨inRange_iff.mpr hA, inRange_iff.mpr hB⟩
  have hseq : firstSeq s.cfg.checkOrder = if s.cfg.checkOrder = .validateFirst then .validateA else .sizeOut := by
    cases s.cfg.checkOrder <;> rfl
  have hx : execMultiply s = .next (s.startCall ⟨aBase, aLen, bBase, bLen, m, n, k⟩) := by
    unfold execMultiply
    rw [if_neg (not_not_intro hs), hl]
    exact (if_pos hin).trans (if_pos (unmarked_iff.mpr ⟨hf, hr⟩))
  rw [← hseq]
  exact hx

/-- Settles O23: the two branches of ACK. -/
theorem ackEndsTheCall : Obligations.AckEndsTheCall := ⟨fun _ hs => if_pos hs, fun _ hs => if_neg hs⟩

/-! ### Without operands -/

/-- A worker in a row has the micro-operation of its operand form before it (spec/42 R165). -/
theorem workerStep_row {w i j p : Nat} {v : Option Single} (h : s.wk[w]? = some (.row i j p v)) :
    workerStep s w = some (rowUop s.arg j p v) := by
  simp only [workerStep, h]

/-- A worker's micro-operation other than ROW_CLAIM has no meaning where the worker's next one is another (spec/42 R165). -/
theorem notEnabled_of_workerStep_ne {i : Instr} (hi : i = .elemInit ∨ i = .group8 ∨ i = .mac1 ∨ i = .elemStore ∨ i = .rowDone)
    (hn : workerStep s s.cur ≠ some i) : exec i s = .refused .notEnabled := by
  have hrow {a j p : Nat} {v : Option Single} (hw : s.worker = some (.row a j p v)) : rowUop s.arg j p v ≠ i :=
    fun hu => hn ((workerStep_row hw).trans (congrArg some hu))
  obtain rfl | rfl | rfl | rfl | rfl := hi <;> simp only [exec]
  · unfold execElemInit
    split
    · exact if_neg (hrow ‹_›)
    · rfl
  · unfold execGroup8
    split
    · exact if_neg (hrow ‹_›)
    · rfl
  · unfold execMac1
    split
    · exact if_neg (hrow ‹_›)
    · rfl
  · unfold execElemStore
    split
    · exact if_neg (hrow ‹_›)
    · rfl
  · unfold execRowDone
    split
    · exact if_neg (hrow ‹_›)
    · rfl

/-- ROW_CLAIM is for an idle worker (spec/42 R148). -/
theorem rowClaim_refused (hw : s.worker ≠ some .idle) : exec .rowClaim s = .refused .notEnabled := by
  simp only [exec]
  unfold execRowClaim
  split
  · exact absurd ‹_› hw
  · rfl

theorem product_eq_none {i j p : Nat} {nan : Single}
    (h : cellAt s.da (i * s.arg.k + p) = none ∨ cellAt s.db (p * s.arg.n + j) = none) : product s i j p nan = none := by
  refine Option.eq_none_iff_forall_ne_some.mpr fun x hx => ?_
  obtain ⟨a, b, ha, hb, -⟩ := product_eq_some.mp hx
  simp [ha, hb] at h

theorem products_eq_none {nan : Nat → Single} {i j p q cnt : Nat} (hq : q < cnt)
    (h : cellAt s.da (i * s.arg.k + (p + q)) = none ∨ cellAt s.db ((p + q) * s.arg.n + j) = none) : products s nan i j p 0 cnt = none := by
  refine Option.eq_none_iff_forall_ne_some.mpr fun xs hx => ?_
  obtain ⟨hlen, hprod⟩ := products_eq_some hx
  have hq' := hprod q hq
  rw [Nat.zero_add, product_eq_none h] at hq'
  exact absurd (List.getElem?_eq_none_iff.mp hq'.symm) (by omega)

theorem readCells_eq_none {cells : List Cell} {n e : Nat} (he : e < n) (h : cellAt cells e = none) : readCells cells n = none := by
  refine Option.eq_none_iff_forall_ne_some.mpr fun vs hv => ?_
  obtain ⟨hlen, hcell⟩ := readCells_eq_some hv
  exact absurd (List.getElem?_eq_none_iff.mp ((hcell e he).symm.trans h)) (by omega)

theorem rowUop_group8 {g : Arg} {j p : Nat} {v : Single} (h : p + 8 ≤ g.k) : rowUop g j p (some v) = .group8 := if_pos h

theorem rowUop_mac1 {g : Arg} {j p : Nat} {v : Single} (h : p < g.k) (h8 : g.k < p + 8) : rowUop g j p (some v) = .mac1 :=
  (if_neg (by omega)).trans (if_pos h)

/-- Settles O50: a missing operand form is refused, an unset cell is UNSET_READ. -/
theorem whereAnOperandIsMissing : Obligations.WhereAnOperandIsMissing := by
  refine ⟨fun s i => notEnabled_of_workerStep_ne, fun s => rowClaim_refused, fun s i j p q v hw hp hq hun => ?_,
    fun s i j p v hw hp hp8 hun => ?_, fun s r e hr he hun => ?_, fun s hr => ?_⟩
  · simp only [exec, execGroup8, hw, rowUop_group8 hp, products_eq_none hq hun]
    rfl
  · simp only [exec, execMac1, hw, rowUop_mac1 hp hp8, product_eq_none hun]
    rfl
  · have hx : execEncode s = .next (s.raiseFault .unsetRead) := by simp only [execEncode, hr, readCells_eq_none he hun]
    exact hx
  · simp only [exec, execEncode, execRespondOk, hr, and_self]

end Sys2Proof.Machine
end

section
/-! PROOFS. Where the block writes: the region of a call and its bytes, ALLOC's region and ENCODE's result. -/

namespace Sys2Proof.Machine

variable {s t : State}

/-! ### Regions -/

theorem holds_iff {r : Region} {a : Nat} : r.holds a = true ↔ r.base ≤ a ∧ a < r.base + r.len := by simp [Region.holds]

theorem holds_eq_false_iff {r : Region} {a : Nat} : r.holds a = false ↔ a < r.base ∨ r.base + r.len ≤ a := by
  rw [Bool.eq_false_iff, Ne, holds_iff]
  omega

/-- A byte outside a region keeps its value when the region's bytes are redrawn. -/
theorem byteAt_fill_outside {r : Region} {a : Nat} (h : r.holds a = false) (f : Nat → Byte) (m : Memory) :
    (Memory.fill f m r.base r.len).byteAt a = m.byteAt a :=
  Memory.byteAt_fill_other (holds_eq_false_iff.mp h)

theorem le_of_within {n b : Nat} {bound : Option Nat} (h : within n bound = true) (hb : bound = some b) : n ≤ b := by
  simpa [within, hb] using h

/-- Settles O29: the allocator answers none, or a base that it may answer; the grant redraws the bytes of that region alone. -/
theorem allocGrantsOrFails : Obligations.AllocGrantsOrFails := by
  intro s hcap hreq
  simp only [exec, execAlloc, hcap, if_neg hreq]
  cases hb : s.request s.outReq with
  | none => exact .inr rfl
  | some base =>
    obtain ⟨hmax, hmay⟩ := request_eq_some hb
    obtain ⟨hin, hA, hB, hlive⟩ := mayAllocate_iff.mp hmay
    refine .inl ⟨base, (s.grant ⟨base, s.outReq⟩).mem, rfl, inRange_iff.mp hin, fun b => le_of_within hmax, fun a hlo hhi => ?_,
      fun a ha => byteAt_fill_outside (holds_eq_false_iff.mpr ha) _ _⟩
    have hheld : Region.holds ⟨base, s.outReq⟩ a = true := holds_iff.mpr ⟨hlo, hhi⟩
    exact ⟨holds_of_disjoint hA hheld, holds_of_disjoint hB hheld, fun r hr => holds_of_disjoint (hlive r hr) hheld⟩

/-! ### What ENCODE writes -/

/-- Memory after ENCODE has written the narrowed cells `vs` from `base` on. -/
def State.encoded (s : State) (base : Nat) (vs : List Single) : Memory := s.mem.writeHalves base (vs.map (enc16 s.cfg.nan32to16))

/-- ENCODE leaves ENC16 of cell `e` at byte `2e` of the region (spec/44 R195). -/
theorem read16_encoded {vs : List Single} {cnt e base : Nat} {v : Single} (hvs : readCells s.acc cnt = some vs) (he : e < cnt)
    (hv : cellAt s.acc e = some v) : (s.encoded base vs).read16 (base + 2 * e) = enc16 s.cfg.nan32to16 v := by
  obtain ⟨hlen, hcell⟩ := readCells_eq_some hvs
  have hve : vs[e]? = some v := (hcell e he).symm.trans hv
  obtain ⟨hlt, rfl⟩ := List.getElem?_eq_some_iff.mp hve
  rw [State.encoded, Memory.read16_writeHalves (by simpa using hlt), List.getElem_map]

/-- ENCODE writes two bytes a cell and no other. -/
theorem byteAt_encoded_outside {vs : List Single} {cnt a base : Nat} (hvs : readCells s.acc cnt = some vs)
    (ha : a < base ∨ base + 2 * cnt ≤ a) : (s.encoded base vs).byteAt a = s.mem.byteAt a := by
  obtain ⟨hlen, -⟩ := readCells_eq_some hvs
  exact Memory.byteAt_writeHalves_other (by simpa [hlen] using ha)

/-- Settles O51: with no cell unset ENCODE reads all of them and writes their halves one after another. -/
theorem encodeWritesTheResult : Obligations.EncodeWritesTheResult := by
  intro s r hr hfit hset
  obtain ⟨vs, hvs⟩ := readCells_isSome hset
  refine ⟨s.encoded r.base vs, ?_, fun i hi j hj v hv => read16_encoded hvs (cell_lt hi hj) hv, fun a => byteAt_encoded_outside hvs⟩
  simp only [exec, execEncode, hr, hvs]
  exact if_pos (.inr hfit)

end Sys2Proof.Machine
end

section
/-! PROOFS. Memory is confined: which instructions leave it alone, what the host may write, and that the block writes in its region only. -/

namespace Sys2Proof.Machine

variable {s t : State} {i : Instr}

/-! ### The region of a call -/

/-- OUT is in range and clear of both input buffers (spec/20 R69). -/
theorem Consistent.region_clear (h : Consistent s) {r : Region} (hr : s.out = some r) :
    r.inRange s.cfg = true ∧ r.disjoint s.arg.bufferA = true ∧ r.disjoint s.arg.bufferB = true := by
  simpa [State.regionClear, hr, and_assoc] using h.regionFree

/-- From ALLOC to the answer OUT is a region of 2mn bytes (spec/44 R196). -/
theorem Consistent.region_len (h : Consistent s) (ha : s.seq.allocated = true) :
    ∃ r, s.out = some r ∧ r.len = 2 * (s.arg.m * s.arg.n) := by
  have hh := h.held ha
  have hreg := hh.region
  unfold State.regionOk at hreg
  cases hr : s.out with
  | none => simp [hr] at hreg
  | some r =>
    simp only [hr, Bool.and_eq_true, decide_eq_true_eq] at hreg
    exact ⟨r, rfl, hreg.1.trans hh.outReq.1⟩

/-! ### Instructions that leave memory alone -/

theorem validate_mem (here : Seq) (len rows cols : Nat) : (s.validate here len rows cols).mem = s.mem := by
  obtain h | ⟨h, -⟩ | h := validate_cases s here len rows cols <;> rw [h] <;> rfl

/-- Only ALLOC, ENCODE and RESPOND_FAIL touch host memory (spec/20 R61; log 10). -/
theorem exec_mem (hal : i ≠ .alloc) (hen : i ≠ .encode) (hrf : i ≠ .respondFail) (hx : exec i s = .next t) : t.mem = s.mem := by
  cases i with
  | multiply => obtain ⟨-, rfl⟩ | ⟨-, -, rfl⟩ | ⟨-, rfl⟩ | ⟨-, -, rfl⟩ | ⟨-, -, _, -, -, -, rfl⟩ := execMultiply_next hx <;> rfl
  | ack => obtain ⟨-, rfl⟩ | ⟨-, rfl⟩ := execAck_next hx <;> rfl
  | validateA => cases hx; exact validate_mem _ _ _ _
  | validateB => cases hx; exact validate_mem _ _ _ _
  | sizeOut =>
    replace hx := execSizeOut_eq.symm.trans hx
    split at hx <;> cases hx <;> rfl
  | alloc => exact absurd rfl hal
  | decodeA => obtain ⟨-, rfl⟩ := execDecodeA_next hx; rfl
  | decodeB => obtain ⟨-, rfl⟩ := execDecodeB_next hx; rfl
  | accClear => cases hx; rfl
  | dispatch => cases hx; rfl
  | join => obtain ⟨-, rfl⟩ | ⟨-, rfl⟩ := execJoin_next hx <;> rfl
  | encode => exact absurd rfl hen
  | respondOk => obtain ⟨_, -, rfl⟩ := execRespondOk_next hx; rfl
  | respondFail => exact absurd rfl hrf
  | rowClaim => obtain ⟨-, ⟨-, rfl⟩ | ⟨-, _, -, rfl⟩⟩ := execRowClaim_next hx <;> rfl
  | elemInit => obtain ⟨_, _, _, -, -, rfl⟩ := execElemInit_next hx; rfl
  | group8 => obtain ⟨_, _, _, _, -, -, ⟨-, rfl⟩ | ⟨_, -, rfl⟩⟩ := execGroup8_next hx <;> rfl
  | mac1 => obtain ⟨_, _, _, _, -, -, -, ⟨-, rfl⟩ | ⟨_, -, rfl⟩⟩ := execMac1_next hx <;> rfl
  | elemStore => obtain ⟨_, _, _, _, -, -, rfl⟩ := execElemStore_next hx; rfl
  | rowDone => obtain ⟨_, _, _, -, -, rfl⟩ := execRowDone_next hx; rfl

/-! ### The block -/

/-- Memory is as before, or as before outside a region, OUT before or after, that shares no byte with an input buffer. -/
def ConfinedToRegion (s t : State) : Prop :=
  t.mem = s.mem ∨
  ∃ r, (s.out = some r ∨ t.out = some r) ∧ r.disjoint s.arg.bufferA = true ∧ r.disjoint s.arg.bufferB = true ∧
    ∀ a, r.holds a = false → t.mem.byteAt a = s.mem.byteAt a

theorem confined_execAlloc (hx : execAlloc s = .next t) : ConfinedToRegion s t := by
  obtain ⟨-, rfl⟩ | ⟨-, -, rfl⟩ | ⟨-, -, -, rfl⟩ | ⟨-, -, base, hb, rfl⟩ := execAlloc_next hx
  · exact .inl rfl
  · exact .inl rfl
  · exact .inl rfl
  · obtain ⟨-, hA, hB, -⟩ := mayAllocate_iff.mp (request_eq_some hb).2
    exact .inr ⟨_, .inr rfl, hA, hB, fun a ha => byteAt_fill_outside ha _ _⟩

theorem confined_execEncode (h : Consistent s) (hs : s.seq = .encode) (hx : execEncode s = .next t) : ConfinedToRegion s t := by
  obtain ⟨r, hr, ⟨-, rfl⟩ | ⟨vs, hvs, -, rfl⟩⟩ := execEncode_next hx
  · exact .inl rfl
  · obtain ⟨q, hq, hlen⟩ := h.region_len (by simp [hs, Seq.allocated])
    cases hr.symm.trans hq
    obtain ⟨-, hA, hB⟩ := h.region_clear hr
    refine .inr ⟨r, .inl hr, hA, hB, fun a ha => byteAt_encoded_outside hvs ?_⟩
    exact hlen ▸ holds_eq_false_iff.mp ha

theorem release_of_none (h : s.out = none) : s.release = s := by simp only [State.release, h]

theorem release_of_some {r : Region} (h : s.out = some r) :
    s.release = { s.unspecify r with out := none, live := s.live.erase r } := by simp only [State.release, h]

theorem confined_execRespondFail (h : Consistent s) (hx : execRespondFail s = .next t) : ConfinedToRegion s t := by
  have hmem : t.mem = s.release.mem := by cases hx; rfl
  cases hr : s.out with
  | none => exact .inl (by rw [hmem, release_of_none hr])
  | some r =>
    obtain ⟨-, hA, hB⟩ := h.region_clear hr
    refine .inr ⟨r, .inl hr, hA, hB, fun a ha => ?_⟩
    rw [hmem, release_of_some hr]
    exact byteAt_fill_outside ha _ _

theorem confined_sequencer (h : Consistent s) (hi : s.seq.uop = some i) (hx : exec i s = .next t) : ConfinedToRegion s t := by
  cases hs : s.seq <;> rw [hs] at hi <;> cases hi
  case alloc => exact confined_execAlloc hx
  case encode => exact confined_execEncode h hs hx
  case respondFail => exact confined_execRespondFail h hx
  all_goals refine .inl (exec_mem ?_ ?_ ?_ hx) <;> nofun

theorem worker_mem (hi : i.ofWorker = true) (hx : exec i s = .next t) : t.mem = s.mem := by
  refine exec_mem ?_ ?_ ?_ hx <;> rintro rfl <;> cases hi

/-- A step that is not the host's. -/
theorem confined_step (h : Consistent s) (hm : s.mover ≠ some .host) (hx : step s = .next t) : ConfinedToRegion s t := by
  have htick : Consistent s.tick := { h with }
  obtain ⟨-, -, -, rfl⟩ | ⟨hh, -⟩ | ⟨-, -, -, i, hi, hx⟩ | ⟨-, -, -, rfl⟩ | ⟨w, i, -, -, -, -, hi, hx⟩ := step_next hx
  · exact .inl rfl
  · exact absurd hh hm
  · exact confined_sequencer (s := s.tick) htick hi hx
  · exact .inl rfl
  · exact .inl (worker_mem (s := { s.tick with cur := w }) (workerStep_ofWorker hi) hx)

/-! ### The host -/

/-- Everything the host's step can do to a call: nothing but what it may write (registers, marks, unprotected bytes, the model's own
fields), start it, or end it. -/
theorem hostStep_effect (hx : hostStep s = .next t) :
    (∃ regs faults refusals mem host rdata live draws,
      t = { s with regs := regs, faults := faults, refusals := refusals, mem := mem, host := host, rdata := rdata, live := live,
                   draws := draws } ∧
      ∀ a, s.protects a = true → Memory.byteAt mem a = s.mem.byteAt a) ∨
    (s.seq = .idle ∧ ∃ g, t = s.popHost.startCall g) ∨ (s.seq = .done ∧ t = s.popHost.endCall) := by
  obtain ⟨-, rfl⟩ | ⟨w, rest, -, ⟨e, -, rfl⟩ | ⟨i, hi, -, hx⟩⟩ | ⟨act, rest, -, -, hx⟩ := hostStep_next hx
  · exact .inl ⟨_, _, _, _, _, _, _, _, rfl, fun _ _ => rfl⟩
  · exact .inl ⟨_, _, _, _, _, _, _, _, rfl, fun _ _ => rfl⟩
  · obtain rfl | rfl := decode_cmd32_ok hi
    · obtain ⟨-, rfl⟩ | ⟨-, -, rfl⟩ | ⟨-, rfl⟩ | ⟨-, -, rfl⟩ | ⟨hs, -, g, -, -, -, rfl⟩ := execMultiply_next hx
      on_goal 5 => exact .inr (.inl ⟨hs, g, rfl⟩)
      all_goals exact .inl ⟨_, _, _, _, _, _, _, _, rfl, fun _ _ => rfl⟩
    · obtain ⟨hs, rfl⟩ | ⟨-, rfl⟩ := execAck_next hx
      · exact .inr (.inr ⟨hs, rfl⟩)
      · exact .inl ⟨_, _, _, _, _, _, _, _, rfl, fun _ _ => rfl⟩
  · obtain ⟨_, _, -, -, rfl⟩ | ⟨_, rfl⟩ | ⟨b, v, -, -, hp, rfl⟩ | ⟨_, -, -, rfl⟩ | rfl := hostTouch_next hx
    on_goal 3 =>
      refine .inl ⟨_, _, _, _, _, _, _, _, rfl, fun a ha => Memory.byteAt_write_other ?_ v s.mem⟩
      rintro rfl
      exact Bool.false_ne_true (hp.symm.trans ha)
    all_goals exact .inl ⟨_, _, _, _, _, _, _, _, rfl, fun _ _ => rfl⟩

/-- The host's step changes no byte it may not write. -/
theorem hostStep_byteAt (hx : hostStep s = .next t) {a : Nat} (ha : s.protects a = true) : t.mem.byteAt a = s.mem.byteAt a := by
  obtain ⟨_, _, _, _, _, _, _, _, rfl, hmem⟩ | ⟨-, g, rfl⟩ | ⟨-, rfl⟩ := hostStep_effect hx
  · exact hmem a ha
  · rfl
  · rfl

theorem protects_input (hb : s.busy = true) {a : Nat} (ha : s.arg.bufferA.holds a = true ∨ s.arg.bufferB.holds a = true) :
    s.protects a = true := by
  obtain ha | ha := ha <;> simp [State.protects, hb, ha]

theorem protects_out {r : Region} (hr : s.out = some r) {a : Nat} (ha : r.holds a = true) : s.protects a = true := by
  simp [State.protects, State.ownsByte, hr, ha]

/-- Settles O54: the block writes in a region that is clear of the inputs, and the host may not write them while a call runs. -/
theorem memoryIsConfined : Obligations.MemoryIsConfined := by
  refine ⟨fun s t h hx hm a ha => ?_, fun s t h hb hx a ha => ?_, fun i s t hal hen hrf hx a => by rw [exec_mem hal hen hrf hx]⟩
  · obtain hmem | ⟨r, hr, -, -, hframe⟩ := confined_step h hm hx
    · rw [hmem]
    · exact hframe a (ha r hr)
  · by_cases hm : s.mover = some .host
    · rw [step_of_mover hm] at hx
      exact hostStep_byteAt hx (protects_input (s := s.tick) hb ha)
    · obtain hmem | ⟨r, -, hA, hB, hframe⟩ := confined_step h hm hx
      · rw [hmem]
      · refine hframe a (Bool.eq_false_iff.mpr fun hheld => ?_)
        have hAa := holds_of_disjoint hA hheld
        have hBa := holds_of_disjoint hB hheld
        simp [hAa, hBa] at ha

end Sys2Proof.Machine
end

section
/-! PROOFS. The result stands: what ENCODE wrote stays in the region to RESPOND_OK, is the observation then, and stays while DONE. -/

namespace Sys2Proof.Machine

variable {s t : State} {i : Instr}

/-! ### From ENCODE to RESPOND_OK -/

/-- `ResultWritten` speaks of RESPOND_OK alone. -/
theorem ResultWritten.outside (h : t.seq ≠ .respondOk) : ResultWritten t := fun hq => absurd hq h

/-- Both bytes of an element lie in a region of 2mn bytes. -/
theorem holds_addrC {g : Arg} {r : Region} (hlen : r.len = 2 * (g.m * g.n)) {i j : Nat} (hi : i < g.m) (hj : j < g.n) :
    r.holds (g.addrC r.base i j) = true ∧ r.holds (g.addrC r.base i j + 1) = true := by
  have hlt := cell_lt hi hj
  simp only [holds_iff, Arg.addrC, hlen]
  omega

theorem ResultWritten.ofEncode (hs : s.seq = .encode) (hx : execEncode s = .next t) : ResultWritten t := by
  obtain ⟨r, hr, ⟨-, rfl⟩ | ⟨vs, hvs, -, rfl⟩⟩ := execEncode_next hx
  · exact .outside (by simp [hs])
  · intro _ q hq i hi j hj v hv
    cases hr.symm.trans hq
    exact read16_encoded hvs (cell_lt hi hj) hv

/-- The only way on to RESPOND_OK is from ENCODE (spec/40 R112). -/
theorem nextSeq_respondOk {o : CheckOrder} {x : Seq} (h : nextSeq o x = .respondOk) : x = .encode := by
  revert h
  cases x <;> cases o <;> decide

theorem ResultWritten.ofSequencer (hi : s.seq.uop = some i) (hx : exec i s = .next t) : ResultWritten t := by
  by_cases hs : s.seq = .encode
  · rw [hs] at hi
    cases hi
    exact .ofEncode hs hx
  · refine .outside fun ht => ?_
    obtain h | h | h := exec_uop_seq hi hx <;> rw [ht] at h
    · rw [← h] at hi
      cases hi
      obtain ⟨r, -, rfl⟩ := execRespondOk_next hx
      cases ht
    · cases h
    · exact hs (nextSeq_respondOk h.symm)

theorem worker_seq (hi : i.ofWorker = true) (hx : exec i s = .next t) : t.seq = s.seq := by
  cases i <;> cases hi
  case rowClaim => obtain ⟨-, ⟨-, rfl⟩ | ⟨-, _, -, rfl⟩⟩ := execRowClaim_next hx <;> rfl
  case elemInit => obtain ⟨_, _, _, -, -, rfl⟩ := execElemInit_next hx; rfl
  case group8 => obtain ⟨_, _, _, _, -, -, ⟨-, rfl⟩ | ⟨_, -, rfl⟩⟩ := execGroup8_next hx <;> rfl
  case mac1 => obtain ⟨_, _, _, _, -, -, -, ⟨-, rfl⟩ | ⟨_, -, rfl⟩⟩ := execMac1_next hx <;> rfl
  case elemStore => obtain ⟨_, _, _, _, -, -, rfl⟩ := execElemStore_next hx; rfl
  case rowDone => obtain ⟨_, _, _, -, -, rfl⟩ := execRowDone_next hx; rfl

theorem firstSeq_ne_respondOk (o : CheckOrder) : firstSeq o ≠ .respondOk := by cases o <;> decide

/-- The host may not write the region, so what stands in it at RESPOND_OK stays. -/
theorem ResultWritten.hostStep (h : Consistent s) (hw : ResultWritten s) (hx : hostStep s = .next t) : ResultWritten t := by
  obtain ⟨_, _, _, mem, _, _, _, _, rfl, hmem⟩ | ⟨-, g, rfl⟩ | ⟨-, rfl⟩ := hostStep_effect hx
  · intro hq r hr i hi j hj v hv
    obtain ⟨q, hq', hlen⟩ := h.region_len (congrArg Seq.allocated hq)
    cases hr.symm.trans hq'
    obtain ⟨hlo, hhi⟩ := holds_addrC hlen hi hj
    calc Memory.read16 mem (s.arg.addrC r.base i j) = s.mem.read16 (s.arg.addrC r.base i j) := by
          rw [Memory.read16, Memory.read16, hmem _ (protects_out hr hlo), hmem _ (protects_out hr hhi)]
      _ = enc16 s.cfg.nan32to16 v := hw hq r hr i hi j hj v hv
  · exact .outside (firstSeq_ne_respondOk _)
  · exact .outside nofun

theorem ResultWritten.step (h : Consistent s) (hw : ResultWritten s) (hx : step s = .next t) : ResultWritten t := by
  have htick : Consistent s.tick := { h with }
  obtain ⟨-, -, -, rfl⟩ | ⟨-, hx⟩ | ⟨-, -, -, i, hi, hx⟩ | ⟨-, -, -, rfl⟩ | ⟨w, i, -, -, hj, -, hi, hx⟩ := step_next hx
  · exact hw
  · exact .hostStep htick hw hx
  · exact .ofSequencer (s := s.tick) hi hx
  · exact .outside nofun
  · have hq : t.seq = s.seq := worker_seq (s := { s.tick with cur := w }) (workerStep_ofWorker hi) hx
    exact .outside (by simp [hq, hj])

/-! ### What the host observes -/

theorem length_observe_bytes (s : State) : s.observe.bytes.length = s.cLen := by simp [State.observe]

theorem getElem?_observe_bytes {e : Nat} (he : e < s.cLen) : s.observe.bytes[e]? = some (s.mem.byteAt (s.cBase + e)) := by
  simp [State.observe, he]

theorem execRespondOk_of_some {r : Region} (hr : s.out = some r) :
    execRespondOk s = .next ({ s with cBase := r.base, cLen := r.len, code := 0, msg := [] }.dropStores.goNext .respondOk) := by
  simp only [execRespondOk, hr]

/-- At DONE the bytes observed are bytes the block owns; a failed call shows none (spec/10 R38, R45). -/
theorem Consistent.protects_answer (h : Consistent s) (hs : s.seq = .done) {e : Nat} (he : e < s.cLen) :
    s.protects (s.cBase + e) = true := by
  have hans := h.answerAt hs
  unfold State.answerOk at hans
  split at hans <;> simp only [Bool.and_eq_true, decide_eq_true_eq] at hans
  · exact protects_out hans.1 (holds_iff.mpr ⟨Nat.le_add_right _ _, Nat.add_lt_add_left he _⟩)
  · omega

/-- The observation depends on the posted answer and on the bytes it names. -/
theorem observe_setMem {m : Memory} (h : ∀ e < s.cLen, m.byteAt (s.cBase + e) = s.mem.byteAt (s.cBase + e)) :
    { s with mem := m }.observe = s.observe := by
  simp only [State.observe, Observation.mk.injEq, true_and]
  exact List.map_congr_left fun e he => h e (List.mem_range.mp he)

theorem observe_hostStep (h : Consistent s) (hs : s.seq = .done) (hx : hostStep s = .next t) (ht : t.seq = .done) :
    t.observe = s.observe := by
  obtain ⟨_, _, _, mem, _, _, _, _, rfl, hmem⟩ | ⟨hi, -⟩ | ⟨-, rfl⟩ := hostStep_effect hx
  · exact observe_setMem fun e he => hmem _ (h.protects_answer hs he)
  · cases hs.symm.trans hi
  · cases ht

/-- At DONE only the host has a step. -/
theorem observe_step (h : Consistent s) (hs : s.seq = .done) (hx : step s = .next t) (ht : t.seq = .done) : t.observe = s.observe := by
  have htick : Consistent s.tick := { h with }
  obtain ⟨-, -, -, rfl⟩ | ⟨-, hx⟩ | ⟨-, -, -, i, hi, -⟩ | ⟨-, -, hr, -⟩ | ⟨w, i, -, -, hj, -⟩ := step_next hx
  · rfl
  · exact observe_hostStep (s := s.tick) htick hs hx ht
  · rw [hs] at hi; cases hi
  · obtain ⟨-, -, hnd, -⟩ := otherReady_iff.mp hr
    exact absurd hs hnd
  · cases hs.symm.trans hj

/-- Settles O56: the result is written by ENCODE, may be written by nobody after it, and is what RESPOND_OK posts. -/
theorem stepKeepsResultWritten : Obligations.StepKeepsResultWritten := by
  refine ⟨fun s t h hw hx => hw.step h hx, fun s h hw hs => ?_, fun s t h hs hx ht => observe_step h hs hx ht⟩
  obtain ⟨r, hr, hlen⟩ := h.region_len (by simp [hs, Seq.allocated])
  refine ⟨_, execRespondOk_of_some hr, rfl, rfl, hlen, rfl, length_observe_bytes _, fun i hi j hj v hv => ?_⟩
  have hcell := cell_lt hi hj
  have hlo : 2 * (i * s.arg.n + j) < r.len := by omega
  have hhi : 2 * (i * s.arg.n + j) + 1 < r.len := by omega
  exact ⟨_, _, getElem?_observe_bytes hlo, getElem?_observe_bytes hhi, hw hs r hr i hi j hj v hv⟩

end Sys2Proof.Machine
end

section
/-! PROOFS. Codes: an instruction is decoded from its own code and from no other, and every other command word is reserved and refused. -/

namespace Sys2Proof

variable {i : Instr}

/-! ### The fields make up the code -/

/-- A command word is RSVD above OP (spec/30 R86). -/
theorem cmdRsvd_append_cmdOp (w : BitVec 32) : cmdRsvd w ++ cmdOp w = w := by
  apply BitVec.eq_of_toNat_eq
  have := w.isLt
  simp only [cmdRsvd, cmdOp, Machine.toNat_append_add, BitVec.extractLsb'_toNat, Nat.shiftRight_eq_div_pow]
  omega

/-- A micro-operation code is UNIT above OP (spec/30 R89). -/
theorem uopUnit_append_uopOp (c : BitVec 8) : uopUnit c ++ uopOp c = c := by
  apply BitVec.eq_of_toNat_eq
  have := c.isLt
  simp only [uopUnit, uopOp, Machine.toNat_append_add, BitVec.extractLsb'_toNat, Nat.shiftRight_eq_div_pow]
  omega

/-! ### Decoding and encoding -/

theorem decode_encode (i : Instr) : decode (encode i) = .ok i := by cases i <;> rfl

/-- The sequencer's micro-operations have the codes of UNIT 1 (spec/30 R90). -/
theorem encode_of_uopOfSequencer {op : Nat} (h : uopOfSequencer op = some i) : encode i = .uop8 (1#4 ++ BitVec.ofNat 4 op) := by
  unfold uopOfSequencer at h
  split at h <;> cases h <;> rfl

/-- The workers' micro-operations have the codes of UNIT 2 (spec/30 R90). -/
theorem encode_of_uopOfWorker {op : Nat} (h : uopOfWorker op = some i) : encode i = .uop8 (2#4 ++ BitVec.ofNat 4 op) := by
  unfold uopOfWorker at h
  split at h <;> cases h <;> rfl

theorem encode_of_decodeCmd {w : BitVec 32} (h : decodeCmd w = .ok i) : encode i = .cmd32 w := by
  unfold decodeCmd at h
  split at h
  · cases h
  · rename_i hr
    rw [← cmdRsvd_append_cmdOp w, not_not.mp hr]
    split at h
    · rename_i ho
      cases h
      rw [ho]
      rfl
    · split at h <;> cases h
      rename_i ho
      rw [ho]
      rfl

theorem encode_of_decodeUop {c : BitVec 8} (h : decodeUop c = .ok i) : encode i = .uop8 c := by
  unfold decodeUop at h
  simp only at h
  split at h <;> cases h
  rename_i hf
  rw [← uopUnit_append_uopOp c]
  split at hf
  · rename_i hu
    rw [hu]
    simpa using encode_of_uopOfSequencer hf
  · split at hf
    · rename_i hu
      rw [hu]
      simpa using encode_of_uopOfWorker hf
    · cases hf

/-- An instruction is decoded from its own code and from no other (spec/30 R87, R90, R91). -/
theorem decode_eq_ok_iff {c : Code} : decode c = .ok i ↔ encode i = c := by
  constructor
  · intro h
    cases c with
    | cmd32 w => exact encode_of_decodeCmd h
    | uop8 c => exact encode_of_decodeUop h
  · rintro rfl
    exact decode_encode i

/-- Settles O1: each row is the round trip of its instruction. -/
theorem tableCodesDecode : Obligations.TableCodesDecode :=
  ⟨decode_encode .multiply, decode_encode .ack, decode_encode .validateA, decode_encode .validateB, decode_encode .sizeOut,
    decode_encode .alloc, decode_encode .decodeA, decode_encode .decodeB, decode_encode .accClear, decode_encode .dispatch,
    decode_encode .join, decode_encode .encode, decode_encode .respondOk, decode_encode .respondFail, decode_encode .rowClaim,
    decode_encode .elemInit, decode_encode .group8, decode_encode .mac1, decode_encode .elemStore, decode_encode .rowDone⟩

/-- Settles O2: `decode` and `encode` are inverse to each other. -/
theorem decodeAndEncodeAgree : Obligations.DecodeAndEncodeAgree := ⟨decode_encode, fun _ _ => decode_eq_ok_iff.mp⟩

/-! ### Command words -/

theorem decode_cmd32_multiply_iff {w : BitVec 32} : decode (.cmd32 w) = .ok .multiply ↔ w = 1 := by
  rw [decode_eq_ok_iff, encode, Code.cmd32.injEq, eq_comm]

theorem decode_cmd32_ack_iff {w : BitVec 32} : decode (.cmd32 w) = .ok .ack ↔ w = 2 := by
  rw [decode_eq_ok_iff, encode, Code.cmd32.injEq, eq_comm]

/-- Every command word but 1 and 2 is reserved (spec/30 R88). -/
theorem decode_cmd32_error_iff {w : BitVec 32} : (∃ e, decode (.cmd32 w) = .error e) ↔ w ≠ 1 ∧ w ≠ 2 := by
  constructor
  · rintro ⟨e, he⟩
    constructor <;> rintro rfl <;> cases he
  · rintro ⟨h1, h2⟩
    cases hd : decode (.cmd32 w) with
    | error e => exact ⟨e, rfl⟩
    | ok i =>
      obtain rfl | rfl := Machine.decode_cmd32_ok hd
      · exact absurd (decode_cmd32_multiply_iff.mp hd) h1
      · exact absurd (decode_cmd32_ack_iff.mp hd) h2

/-- Settles O3: the words other than 1 and 2 are those with another OP or with something in RSVD. -/
theorem everyOtherCommandWordIsReserved : Obligations.EveryOtherCommandWordIsReserved := by
  refine fun w => ⟨decode_cmd32_multiply_iff, decode_cmd32_ack_iff, decode_cmd32_error_iff.trans ?_⟩
  simp only [ne_eq, ← BitVec.toNat_inj]
  change ¬w.toNat = 1 ∧ ¬w.toNat = 2 ↔ _
  omega

end Sys2Proof

namespace Sys2Proof.Machine

/-- Settles O8: the word does not decode, so the host's step is the refusal. -/
theorem reservedWordsAreRefused : Obligations.ReservedWordsAreRefused := by
  intro s w rest hm hq h1 h2
  obtain ⟨e, he⟩ := decode_cmd32_error_iff.mpr ⟨h1, h2⟩
  have hpop : s.tick.popHost = { s.tick with host := rest } := by simp [State.popHost, hq]
  rw [step_of_mover hm, runAgent, hostStep, State.tick_host, hq]
  simp only [writeCmd, he, hpop]
  rfl

end Sys2Proof.Machine
end

section
/-! PROOFS. fl32 is round to nearest, ties to even: the rounded count of the grid's steps is the nearest multiple of the step, a pattern's
bits are that multiple, and what is not a multiple lies farther off. -/

namespace Sys2Proof

variable {mag e d : Nat}

/-! ### The grid fl32 rounds to -/

/-- fl32 rounds `mag` to the grid of step `2^(e + d)`, where `2^e` stands for 2^-149: the magnitude is under 2^24 steps and, unless the step is
2^-149 itself (`d = 0`), has 2^23 of them (spec/42 R157). -/
structure GridStep (mag e d : Nat) : Prop where
  lt : mag < 2 ^ 24 * 2 ^ (e + d)
  le : d = 0 ∨ 2 ^ 23 * 2 ^ (e + d) ≤ mag

/-- The bits below the sign that fl32 makes of a magnitude: a field for the step, with the rounded count of steps carried into it. -/
def roundedBits (mag e d : Nat) : Nat := d * 2 ^ 23 + roundEven mag (e + d)

/-- fl32 finds the grid's step and makes its bits, or infinity where they overflow. -/
theorem fl32_eq (hm : 0 < mag) (s sc : Nat) :
    ∃ d, GridStep mag (sc - 149) d ∧
      fl32 s mag sc =
        if 255 * 2 ^ 23 ≤ roundedBits mag (sc - 149) d then Single.pack s 255 0 else Single.pack s 0 (roundedBits mag (sc - 149) d) := by
  have hsh : sc - 149 + (max (Nat.log2 mag - 23) (sc - 149) - (sc - 149)) = max (Nat.log2 mag - 23) (sc - 149) := by omega
  refine ⟨max (Nat.log2 mag - 23) (sc - 149) - (sc - 149), ⟨?_, ?_⟩, ?_⟩
  · rw [hsh, ← pow_add]
    exact Nat.lt_log2_self.trans_le (Nat.pow_le_pow_right (by omega) (by omega))
  · rw [hsh, ← pow_add]
    refine (Nat.eq_zero_or_pos _).imp_right fun hd => ?_
    exact (Nat.pow_le_pow_right (by omega) (by omega)).trans (Nat.log2_self_le hm.ne')
  · unfold roundedBits
    rw [hsh]
    rfl

/-! ### The rounded count of steps -/

/-- How far `a` is from the exact magnitude. -/
def distance (mag a : Nat) : Nat := ((a : Int) - mag).natAbs

/-- A multiple of the step is no nearer to the magnitude than the rounded count of steps, and one as near leaves an even count. -/
theorem roundEven_nearest (mag sh z : Nat) :
    distance mag (roundEven mag sh * 2 ^ sh) ≤ distance mag (z * 2 ^ sh) ∧
    (distance mag (roundEven mag sh * 2 ^ sh) = distance mag (z * 2 ^ sh) → z ≠ roundEven mag sh → roundEven mag sh % 2 = 0) := by
  unfold distance
  obtain ⟨hlo, hhi, heven⟩ := roundEven_spec mag sh
  have hw := Nat.two_pow_pos sh
  generalize roundEven mag sh = r at *
  generalize 2 ^ sh = w at *
  have hr : (2 * r + 1) * w = 2 * (r * w) + w := by ring
  rw [hr] at hlo heven
  obtain hz | rfl | hz := Nat.lt_trichotomy z r
  · have hstep : (z + 1) * w ≤ r * w := Nat.mul_le_mul_right w hz
    rw [Nat.succ_mul] at hstep
    omega
  · exact ⟨le_rfl, fun _ h => absurd rfl h⟩
  · have hstep : (r + 1) * w ≤ z * w := Nat.mul_le_mul_right w hz
    rw [Nat.succ_mul] at hstep
    omega

/-- At most 24 bits are kept, and 24 where the step is not the smallest. -/
theorem GridStep.roundEven_bounds (h : GridStep mag e d) : roundEven mag (e + d) ≤ 2 ^ 24 ∧ (d = 0 ∨ 2 ^ 23 ≤ roundEven mag (e + d)) := by
  obtain ⟨hlt, hle⟩ := h
  obtain ⟨hlo, hhi, -⟩ := roundEven_spec mag (e + d)
  have hw := Nat.two_pow_pos (e + d)
  generalize roundEven mag (e + d) = r at *
  generalize 2 ^ (e + d) = w at *
  constructor
  · have : r * w < (2 ^ 24 + 1) * w := by omega
    exact Nat.lt_succ_iff.mp (Nat.lt_of_mul_lt_mul_right this)
  · refine hle.imp_right fun hle => ?_
    have : 2 ^ 24 * w < (2 * r + 2) * w := by
      rw [show (2 * r + 2) * w = (2 * r + 1) * w + w by ring]
      omega
    have := Nat.lt_of_mul_lt_mul_right this
    omega

/-- The bits overflow from 2^128 - 2^103 on. -/
theorem GridStep.overflow_iff (h : GridStep mag e d) :
    255 * 2 ^ 23 ≤ roundedBits mag e d ↔ (2 ^ 128 - 2 ^ 103) * 2 ^ (e + 149) ≤ mag := by
  obtain ⟨hr, hr'⟩ := h.roundEven_bounds
  obtain ⟨hlt, hle⟩ := h
  obtain ⟨hlo, hhi, heven⟩ := roundEven_spec mag (e + d)
  have hT : (2 ^ 128 - 2 ^ 103) * 2 ^ (e + 149) = (2 ^ 25 - 1) * 2 ^ (e + 252) := by
    rw [show e + 252 = 103 + (e + 149) by omega, pow_add 2 103, ← mul_assoc]
    rfl
  rw [hT, roundedBits]
  obtain hd | rfl | hd : d ≤ 252 ∨ d = 253 ∨ 254 ≤ d := by omega
  · have hw : 2 ^ (e + d) ≤ 2 ^ (e + 252) := Nat.pow_le_pow_right (by omega) (by omega)
    omega
  · rw [show e + 253 = e + 252 + 1 by omega, pow_succ] at *
    generalize roundEven mag (e + 252 + 1) = r at *
    generalize 2 ^ (e + 252) = u at *
    obtain rfl | rfl | hr : r = 2 ^ 24 ∨ r = 2 ^ 24 - 1 ∨ 2 * r + 1 ≤ 2 ^ 25 - 3 := by omega
    · omega
    · omega
    · have := Nat.mul_le_mul_right (u * 2) hr
      have hu := Nat.two_pow_pos (e + 252)
      omega
  · have hw : 2 ^ (e + 254) ≤ 2 ^ (e + d) := Nat.pow_le_pow_right (by omega) (by omega)
    have hu : 2 ^ (e + 254) = 4 * 2 ^ (e + 252) := by ring
    omega

/-! ### Magnitudes on the grid -/

/-- The magnitude of the pattern with these bits below the sign, a carry having gone into the exponent's field. -/
theorem Single.mag_pack_bits {s r d : Nat} (hs : s < 2) (hr : r ≤ 2 ^ 24) (hr' : d = 0 ∨ 2 ^ 23 ≤ r) (hb : d * 2 ^ 23 + r < 255 * 2 ^ 23) :
    Single.mag (Single.pack s 0 (d * 2 ^ 23 + r)) = r * 2 ^ d := by
  have hfit : 0 * 2 ^ 23 + (d * 2 ^ 23 + r) < 2 ^ 31 := by rw [Nat.zero_mul]; omega
  unfold Single.mag
  rw [Single.pack_exp hs hfit, Single.pack_frac hs hfit]
  obtain hlow | hmid | rfl : r < 2 ^ 23 ∨ (2 ^ 23 ≤ r ∧ r < 2 ^ 24) ∨ r = 2 ^ 24 := by omega
  · obtain rfl : d = 0 := by omega
    rw [if_pos (by omega)]
    omega
  · rw [if_neg (by omega), show 0 + (d * 2 ^ 23 + r) / 2 ^ 23 - 1 = d by omega, show 2 ^ 23 + (d * 2 ^ 23 + r) % 2 ^ 23 = r by omega]
  · rw [if_neg (by omega), show 0 + (d * 2 ^ 23 + 2 ^ 24) / 2 ^ 23 - 1 = d + 1 by omega,
      show 2 ^ 23 + (d * 2 ^ 23 + 2 ^ 24) % 2 ^ 23 = 2 ^ 23 by omega, pow_succ]
    omega

/-- A finite magnitude is a multiple of the step, or it is of fewer bits and below everything rounded to that step. -/
theorem Single.mag_on_grid (y : Single) (d : Nat) : (∃ z, Single.mag y = z * 2 ^ d) ∨ (d ≠ 0 ∧ Single.mag y < 2 ^ 23 * 2 ^ d) := by
  have hf := Single.frac_lt y
  unfold Single.mag
  obtain rfl | hd := Nat.eq_zero_or_pos d
  · exact .inl ⟨_, (Nat.mul_one _).symm⟩
  · split
    · exact .inr ⟨hd.ne', hf.trans_le (Nat.le_mul_of_pos_right _ (Nat.two_pow_pos d))⟩
    · obtain hE | hE := Nat.lt_or_ge (Single.exp y - 1) d
      · have hp : 2 ^ (Single.exp y - 1 + 1) ≤ 2 ^ d := Nat.pow_le_pow_right (by omega) hE
        refine .inr ⟨hd.ne', ?_⟩
        calc (2 ^ 23 + Single.frac y) * 2 ^ (Single.exp y - 1)
            < 2 ^ 24 * 2 ^ (Single.exp y - 1) := Nat.mul_lt_mul_of_pos_right (by omega) (Nat.two_pow_pos _)
          _ = 2 ^ 23 * 2 ^ (Single.exp y - 1 + 1) := by ring
          _ ≤ 2 ^ 23 * 2 ^ d := Nat.mul_le_mul_left _ hp
      · exact .inl ⟨(2 ^ 23 + Single.frac y) * 2 ^ (Single.exp y - 1 - d), by rw [mul_assoc, ← pow_add, Nat.sub_add_cancel hE]⟩

/-- No finite magnitude is nearer than the rounded count of steps, and one as near leaves an even count. -/
theorem GridStep.nearest (h : GridStep mag e d) (y : Single) :
    distance mag (roundEven mag (e + d) * 2 ^ (e + d)) ≤ distance mag (Single.mag y * 2 ^ e) ∧
    (distance mag (roundEven mag (e + d) * 2 ^ (e + d)) = distance mag (Single.mag y * 2 ^ e) →
      Single.mag y ≠ roundEven mag (e + d) * 2 ^ d → roundEven mag (e + d) % 2 = 0) := by
  obtain ⟨z, hz⟩ | ⟨hd, hy⟩ := Single.mag_on_grid y d
  · obtain ⟨hle, heven⟩ := roundEven_nearest mag (e + d) z
    have hzw : z * 2 ^ (e + d) = Single.mag y * 2 ^ e := by rw [hz]; ring
    rw [hzw] at hle heven
    exact ⟨hle, fun heq hne => heven heq fun hzr => hne (hz.trans (by rw [hzr]))⟩
  · have hbelow : Single.mag y * 2 ^ e < 2 ^ 23 * 2 ^ (e + d) := by
      calc Single.mag y * 2 ^ e < 2 ^ 23 * 2 ^ d * 2 ^ e := Nat.mul_lt_mul_of_pos_right hy (Nat.two_pow_pos e)
        _ = 2 ^ 23 * 2 ^ (e + d) := by ring
    have hle := h.le.resolve_left hd
    have hnear := (roundEven_nearest mag (e + d) (2 ^ 23)).1
    unfold distance at *
    omega

/-- Settles O36: under the overflow the bits are those of the rounded count of steps, which is nearest. -/
theorem roundingIsToNearestEven : Obligations.RoundingIsToNearestEven := by
  intro s mag sc hs hm hsc
  obtain ⟨d, hg, hfl⟩ := fl32_eq hm s sc
  have hover := hg.overflow_iff
  rw [Nat.sub_add_cancel hsc] at hover
  refine ⟨fun h => by rw [hfl, if_pos (hover.mpr h)], fun h => ?_⟩
  have hb : roundedBits mag (sc - 149) d < 255 * 2 ^ 23 := Nat.not_le.mp fun hb => absurd (hover.mp hb) (Nat.not_le.mpr h)
  rw [if_neg (Nat.not_le.mpr hb)] at hfl
  obtain ⟨hr, hr'⟩ := hg.roundEven_bounds
  have hmag : Single.mag (fl32 s mag sc) = roundEven mag (sc - 149 + d) * 2 ^ d := by
    rw [hfl]
    exact Single.mag_pack_bits hs hr hr' hb
  have hfrac : Single.frac (fl32 s mag sc) % 2 = roundEven mag (sc - 149 + d) % 2 := by
    rw [hfl, Single.pack_frac hs (by omega), roundedBits]
    omega
  refine ⟨?_, by rw [hfl]; exact Single.pack_sign hs (by omega), fun y _ => ?_⟩
  · rw [hfl, Single.isFinite, Single.pack_exp hs (by omega)]
    exact decide_eq_true (by omega)
  · have hw : roundEven mag (sc - 149 + d) * 2 ^ (sc - 149 + d) = Single.mag (fl32 s mag sc) * 2 ^ (sc - 149) := by rw [hmag]; ring
    have hn := hg.nearest y
    rw [hw, ← hmag] at hn
    rw [hfrac]
    exact hn

end Sys2Proof
end

section
/-! PROOFS. What stops the machine: no instruction that an agent has before it stops, so a stop is a recorded model fault or a move of the
host. -/

namespace Sys2Proof.Machine

variable {s : State} {i : Instr}

/-! ### The commands -/

theorem execMultiply_answers (s : State) : ∃ t, execMultiply s = .next t := by
  unfold execMultiply
  split
  · exact ⟨_, rfl⟩
  · split
    · exact ⟨_, rfl⟩
    · split_ifs <;> exact ⟨_, rfl⟩

theorem command_answers (hi : i = .multiply ∨ i = .ack) (s : State) : ∃ t, exec i s = .next t := by
  obtain rfl | rfl := hi
  · exact execMultiply_answers s
  · change ∃ t, execAck s = .next t
    unfold execAck
    split_ifs <;> exact ⟨_, rfl⟩

/-! ### The sequencer -/

theorem execSizeOut_answers (s : State) : ∃ t, execSizeOut s = .next t := by
  rw [execSizeOut_eq]
  split_ifs <;> exact ⟨_, rfl⟩

theorem execAlloc_answers (s : State) : ∃ t, execAlloc s = .next t := by
  unfold execAlloc
  split_ifs
  · exact ⟨_, rfl⟩
  · exact ⟨_, rfl⟩
  · split <;> exact ⟨_, rfl⟩

theorem execJoin_answers (s : State) : ∃ t, execJoin s = .next t := by
  unfold execJoin
  split_ifs <;> exact ⟨_, rfl⟩

/-- Every byte DECODE_A and DECODE_B read exists, since both descriptors are in range (spec/30 R94). -/
theorem readable_of_inRange {base len : Nat} (h : Region.inRange ⟨base, len⟩ s.cfg = true) : s.readable base (elemCount len) = true := by
  have hr : base + len ≤ s.cfg.addrSpace := inRange_iff.mp h
  unfold State.readable elemCount
  exact decide_eq_true (.inr (by omega))

theorem execDecodeA_answers (h : Consistent s) : ∃ t, execDecodeA s = .next t :=
  ⟨_, if_pos (readable_of_inRange h.argRange.1)⟩

theorem execDecodeB_answers (h : Consistent s) : ∃ t, execDecodeB s = .next t :=
  ⟨_, if_pos (readable_of_inRange h.argRange.2)⟩

/-- ENCODE has a region of 2mn bytes that exist (spec/44 R196). -/
theorem execEncode_answers (h : Consistent s) (hs : s.seq = .encode) : ∃ t, execEncode s = .next t := by
  obtain ⟨r, hr, hlen⟩ := h.region_len (by simp [hs, Seq.allocated])
  have hfit := inRange_iff.mp (h.region_clear hr).1
  rw [hlen] at hfit
  simp only [execEncode, hr]
  split
  · exact ⟨_, rfl⟩
  · exact ⟨_, if_pos (.inr hfit)⟩

theorem execRespondOk_answers (h : Consistent s) (hs : s.seq = .respondOk) : ∃ t, execRespondOk s = .next t := by
  obtain ⟨r, hr, -⟩ := h.region_len (by simp [hs, Seq.allocated])
  exact ⟨_, execRespondOk_of_some hr⟩

theorem Consistent.sequencer_answers (h : Consistent s) (hi : s.seq.uop = some i) : ∃ t, exec i s = .next t := by
  cases hs : s.seq <;> rw [hs] at hi <;> cases hi
  case validateA => exact ⟨_, rfl⟩
  case validateB => exact ⟨_, rfl⟩
  case sizeOut => exact execSizeOut_answers s
  case alloc => exact execAlloc_answers s
  case decodeA => exact execDecodeA_answers h
  case decodeB => exact execDecodeB_answers h
  case accClear => exact ⟨_, rfl⟩
  case dispatch => exact ⟨_, rfl⟩
  case join => exact execJoin_answers s
  case encode => exact execEncode_answers h hs
  case respondOk => exact execRespondOk_answers h hs
  case respondFail => exact ⟨_, rfl⟩

/-! ### The workers -/

theorem execRowClaim_answers (hw : s.worker = some .idle) : ∃ t, execRowClaim s = .next t := by
  simp only [execRowClaim, hw]
  split_ifs
  · split <;> exact ⟨_, rfl⟩
  · exact ⟨_, rfl⟩

/-- A worker in a row has the operand form of the micro-operation that `rowUop` chooses for it (spec/42 R165). -/
theorem rowUop_answers {a j p : Nat} {v : Option Single} (hw : s.worker = some (.row a j p v)) :
    ∃ t, exec (rowUop s.arg j p v) s = .next t := by
  cases v with
  | none =>
    by_cases hj : j < s.arg.n
    · have hu : rowUop s.arg j p none = .elemInit := if_pos hj
      simp only [hu, exec, execElemInit, hw, if_true]
      exact ⟨_, rfl⟩
    · have hu : rowUop s.arg j p none = .rowDone := if_neg hj
      simp only [hu, exec, execRowDone, hw, if_true]
      exact ⟨_, rfl⟩
  | some v =>
    by_cases h8 : p + 8 ≤ s.arg.k
    · simp only [rowUop_group8 h8, exec, execGroup8, hw, if_true]
      split <;> exact ⟨_, rfl⟩
    · by_cases hp : p < s.arg.k
      · simp only [rowUop_mac1 hp (Nat.not_le.mp h8), exec, execMac1, hw, if_true]
        split <;> exact ⟨_, rfl⟩
      · have hu : rowUop s.arg j p (some v) = .elemStore := (if_neg h8).trans (if_neg hp)
        simp only [hu, exec, execElemStore, hw, if_true]
        exact ⟨_, rfl⟩

theorem worker_answers (hi : workerStep s s.cur = some i) : ∃ t, exec i s = .next t := by
  unfold workerStep at hi
  split at hi
  · cases hi
  · rename_i hw
    split at hi <;> cases hi
    exact execRowClaim_answers hw
  · rename_i hw
    cases hi
    exact rowUop_answers hw

/-! ### The host -/

/-- An interaction other than a command stops by name when its address does not exist, or it breaks a duty or is too wide (log 17). -/
theorem hostTouch_cases (s : State) (act : HostAction) :
    (∃ t, hostTouch s act = .next t) ∨ (hostTouch s act = .fault .noSuchAddress ∧ act.wf s.cfg = false) ∨
    hostTouch s act = .refused .hostDuty ∨ hostTouch s act = .refused .tooWide := by
  cases act with
  | wr r v =>
    simp only [hostTouch]
    split_ifs
    · exact .inl ⟨_, rfl⟩
    · exact .inr (.inr (.inr rfl))
  | poke a b =>
    simp only [hostTouch]
    split_ifs with ha
    · exact .inr (.inl ⟨rfl, decide_eq_false (Nat.not_lt.mpr ha)⟩)
    · exact .inr (.inr (.inl rfl))
    · exact .inl ⟨_, rfl⟩
  | peek a =>
    simp only [hostTouch]
    split_ifs with ha
    · exact .inr (.inl ⟨rfl, decide_eq_false (Nat.not_lt.mpr ha)⟩)
    · exact .inl ⟨_, rfl⟩
  | free r =>
    simp only [hostTouch]
    split_ifs
    · exact .inl ⟨_, rfl⟩
    · exact .inr (.inr (.inl rfl))
  | rd r => exact .inl ⟨_, rfl⟩
  | wrStatus v => exact .inl ⟨_, rfl⟩
  | waitDone => exact .inl ⟨_, rfl⟩
  | cmd w => exact .inl ⟨_, rfl⟩

/-- A word written to CMD stops the machine only where a model fault was recorded before (spec/60 R212). -/
theorem writeCmd_cases (w : BitVec 32) (s : State) :
    (∃ t, writeCmd w s = .next t) ∨ ∃ k ∈ s.faults, writeCmd w s = .fault (.halted k) := by
  unfold writeCmd
  cases hd : decode (.cmd32 w) with
  | error e => exact .inl ⟨_, rfl⟩
  | ok i =>
    cases s.faults with
    | nil => exact .inl (command_answers (decode_cmd32_ok hd) s)
    | cons k ks => exact .inr ⟨k, List.mem_cons_self, rfl⟩

/-! ### The step -/

/-- The outcomes a step of the host alone can have: what it did used an address that does not exist, broke a duty or was too wide. -/
def HostStop (s : State) (o : Host.Outcome State Fault Refusal) : Prop :=
  (o = .fault .noSuchAddress ∧ ∃ act rest, s.host = act :: rest ∧ act.wf s.cfg = false) ∨ o = .refused .hostDuty ∨ o = .refused .tooWide

theorem hostStep_cases (s : State) :
    (∃ t, hostStep s = .next t) ∨ (∃ k ∈ s.faults, hostStep s = .fault (.halted k)) ∨ HostStop s (hostStep s) := by
  unfold hostStep
  split
  · exact .inl ⟨_, rfl⟩
  · rename_i w rest hq
    exact (writeCmd_cases w s.popHost).imp_right .inl
  · rename_i act rest hne hq
    obtain h | ⟨h, hwf⟩ | h := hostTouch_cases s.popHost act
    · exact .inl h
    · exact .inr (.inr (.inl ⟨h, act, rest, hq, hwf⟩))
    · exact .inr (.inr (.inr h))

/-- From a consistent state a step answers, or it halts on a recorded model fault, or the host moved and stopped. -/
theorem Consistent.step_cases (h : Consistent s) :
    (∃ t, step s = .next t) ∨ (∃ k ∈ s.faults, step s = .fault (.halted k)) ∨ (s.mover = some .host ∧ HostStop s (step s)) := by
  have htick : Consistent s.tick := { h with }
  cases hm : s.mover with
  | none =>
    rw [step_of_no_mover hm, State.rest]
    cases s.faults with
    | nil => exact .inl ⟨_, rfl⟩
    | cons k ks => exact .inr (.inl ⟨k, List.mem_cons_self, rfl⟩)
  | some g =>
    rw [step_of_mover hm]
    cases g with
    | host => exact (hostStep_cases s.tick).imp_right (Or.imp_right fun hstop => ⟨rfl, hstop⟩)
    | sequencer =>
      simp only [runAgent]
      split
      · exact .inl ⟨_, rfl⟩
      · exact .inl (htick.sequencer_answers ‹_›)
    | other => exact .inl ⟨_, rfl⟩
    | worker w =>
      simp only [runAgent]
      split
      · exact .inl ⟨_, rfl⟩
      · exact .inl (worker_answers (s := { s.tick with cur := w }) ‹_›)

/-- Settles O60: a fault is a recorded one or the host's, and a refusal is the host's. -/
theorem onlyFaultsAndTheHostStopTheMachine : Obligations.OnlyFaultsAndTheHostStopTheMachine := by
  intro s h
  have hc := h.step_cases
  refine ⟨fun f hx => ?_, fun r hx => ?_⟩ <;> rw [hx] at hc
  · obtain ⟨_, ⟨⟩⟩ | ⟨k, hk, ⟨⟩⟩ | ⟨hm, ⟨⟨⟩, hact⟩ | ⟨⟨⟩⟩ | ⟨⟨⟩⟩⟩ := hc
    · exact .inl ⟨k, hk, rfl⟩
    · exact .inr ⟨rfl, hm, hact⟩
  · obtain ⟨_, ⟨⟩⟩ | ⟨k, hk, ⟨⟩⟩ | ⟨hm, ⟨⟨⟩, -⟩ | ⟨⟨⟩⟩ | ⟨⟨⟩⟩⟩ := hc
    · exact ⟨hm, .inl rfl⟩
    · exact ⟨hm, .inr rfl⟩

end Sys2Proof.Machine
end

section
/-! PROOFS. A call comes to an end: a worker's step takes one off the steps left in the multiply phase, and a step of the sequencer goes on
in its order or ends the call. -/

namespace Sys2Proof.Machine

variable {s t : State} {i : Instr}

/-! ### Steps left in the multiply phase (spec/42 R167) -/

/-- Putting `x` in the place of `y` trades `y`'s steps for `x`'s. -/
theorem sum_left_set (g : Arg) {ws : List Worker} {c : Nat} {y : Worker} (h : ws[c]? = some y) (x : Worker) :
    y.left g + ((ws.set c x).map (Worker.left g)).sum = x.left g + (ws.map (Worker.left g)).sum := by
  have hp := (filterMap_set_perm (fun w => some (Worker.left g w)) h x).sum_nat
  simpa using hp

/-- A worker that goes on to a state with one step less takes one off the steps left. -/
theorem workLeft_setWorker {x y : Worker} (hw : s.worker = some y) (hl : y.left s.arg = x.left s.arg + 1) :
    (s.setWorker x).workLeft + 1 = s.workLeft := by
  have hsum := sum_left_set s.arg hw x
  simp only [State.workLeft, State.setWorker]
  omega

/-- A claimed row has, with the claim, the steps a pending row stands for. -/
theorem workLeft_claim {a : Nat} (hw : s.worker = some .idle) (ha : a ∈ s.rowsPending) :
    ({ s with rowsPending := s.rowsPending.erase a }.setWorker (.row a 0 0 none)).workLeft + 1 = s.workLeft := by
  have hsum := sum_left_set s.arg hw (.row a 0 0 none)
  have hrows : (s.rowsPending.erase a).length + 1 = s.rowsPending.length := by
    rw [List.length_erase_of_mem ha]
    exact Nat.sub_add_cancel (List.length_pos_of_mem ha)
  simp only [State.workLeft, State.setWorker, ← hrows, Nat.succ_mul]
  simp only [Worker.left, rowSteps, Nat.sub_zero] at hsum ⊢
  omega

theorem left_elemInit {g : Arg} {a j p : Nat} (v : Single) (hj : j < g.n) :
    (Worker.row a j p none).left g = (Worker.row a j 0 (some v)).left g + 1 := by
  have hn : g.n - j = g.n - (j + 1) + 1 := by omega
  simp only [Worker.left, hn, Nat.succ_mul, elemSteps, Nat.sub_zero]
  omega

theorem left_group8 {g : Arg} {a j p : Nat} (v w : Single) (hp : p + 8 ≤ g.k) :
    (Worker.row a j p (some v)).left g = (Worker.row a j (p + 8) (some w)).left g + 1 := by
  simp only [Worker.left]
  omega

theorem left_mac1 {g : Arg} {a j p : Nat} (v w : Single) (hp : p < g.k) (hp8 : g.k < p + 8) :
    (Worker.row a j p (some v)).left g = (Worker.row a j (p + 1) (some w)).left g + 1 := by
  simp only [Worker.left]
  omega

theorem left_elemStore {g : Arg} {a j p : Nat} (v : Single) (hp : g.k ≤ p) :
    (Worker.row a j p (some v)).left g = (Worker.row a (j + 1) 0 none).left g + 1 := by
  simp only [Worker.left, Nat.sub_eq_zero_of_le hp]

theorem left_rowDone {g : Arg} {a j p : Nat} (hj : g.n ≤ j) : (Worker.row a j p none).left g = Worker.idle.left g + 1 := by
  simp only [Worker.left, Nat.sub_eq_zero_of_le hj, Nat.zero_mul]

theorem raiseFault_faults_ne_nil (s : State) (k : FaultKind) : (s.raiseFault k).faults ≠ [] :=
  List.ne_nil_of_mem (mem_insertNew.mpr (.inr rfl))

/-- An idle worker has a step only at JOIN with a row pending (spec/42 R165). -/
theorem claimable_of_workerStep (hw : s.worker = some .idle) (hi : workerStep s s.cur = some i) : s.seq = .join ∧ s.rowsPending ≠ [] := by
  rw [State.worker] at hw
  simp only [workerStep, hw] at hi
  split at hi
  · assumption
  · cases hi

/-- A worker's micro-operation records a model fault or takes one off the steps left (spec/42 R167). -/
theorem workLeft_worker (hi : workerStep s s.cur = some i) (hx : exec i s = .next t) : t.faults ≠ [] ∨ t.workLeft + 1 = s.workLeft := by
  have hof := workerStep_ofWorker hi
  cases i <;> cases hof
  case rowClaim =>
    obtain ⟨hw, ⟨hno, -⟩ | ⟨-, a, ha, rfl⟩⟩ := execRowClaim_next hx
    · obtain ⟨hj, hp⟩ := claimable_of_workerStep hw hi
      exact (hno.elim (· hj) hp).elim
    · exact .inr (workLeft_claim hw ha)
  case elemInit =>
    obtain ⟨a, j, p, hw, hj, rfl⟩ := execElemInit_next hx
    exact .inr (workLeft_setWorker hw (left_elemInit _ hj))
  case group8 =>
    obtain ⟨a, j, p, v, hw, hp, ⟨-, rfl⟩ | ⟨ps, -, rfl⟩⟩ := execGroup8_next hx
    · exact .inl (raiseFault_faults_ne_nil s _)
    · exact .inr (workLeft_setWorker hw (left_group8 _ _ hp))
  case mac1 =>
    obtain ⟨a, j, p, v, hw, hp, hp8, ⟨-, rfl⟩ | ⟨x, -, rfl⟩⟩ := execMac1_next hx
    · exact .inl (raiseFault_faults_ne_nil s _)
    · exact .inr (workLeft_setWorker hw (left_mac1 _ _ hp hp8))
  case elemStore =>
    obtain ⟨a, j, p, v, hw, hp, rfl⟩ := execElemStore_next hx
    exact .inr (workLeft_setWorker (s := { s with acc := _ }) hw (left_elemStore v hp))
  case rowDone =>
    obtain ⟨a, j, p, hw, hj, rfl⟩ := execRowDone_next hx
    exact .inr (workLeft_setWorker (s := { s with rowsDone := _ }) hw (left_rowDone hj))

/-- DISPATCH makes every row pending, and idle workers have no step left (spec/42 R167). -/
theorem workLeft_dispatch (hidle : ∀ x ∈ s.wk, x = .idle) (hx : execDispatch s = .next t) :
    t.workLeft = s.arg.m * rowSteps s.arg.n s.arg.k := by
  have hsum : (s.wk.map (Worker.left s.arg)).sum = 0 := by
    refine List.sum_eq_zero fun l hl => ?_
    obtain ⟨x, hx, rfl⟩ := List.mem_map.mp hl
    rw [hidle x hx]
    rfl
  cases hx
  simp [State.workLeft, hsum]

/-! ### Steps left in the call (spec/70 R237) -/

theorem left_nextSeq_lt {o : CheckOrder} {x : Seq} (hx : x.uop.isSome = true) : (nextSeq o x).left o < x.left o := by
  revert hx
  cases x <;> cases o <;> decide

theorem two_le_left {o : CheckOrder} {x : Seq} (hx : x.uop.isSome = true) (hf : x ≠ .respondFail) : 2 ≤ x.left o := by
  revert hx hf
  cases x <;> cases o <;> decide

theorem nextSeq_ne_join {o : CheckOrder} {x : Seq} (hx : x ≠ .dispatch) (hj : x ≠ .join) : nextSeq o x ≠ .join := by
  revert hx hj
  cases x <;> cases o <;> decide

theorem callLeft_of_join (h : s.seq = .join) : s.callLeft = 4 + s.workLeft := by simp [State.callLeft, h, Seq.left]

theorem callLeft_of_ne_join (h : s.seq ≠ .join) : s.callLeft = s.seq.left s.cfg.checkOrder +
    if 4 < s.seq.left s.cfg.checkOrder then s.arg.m * rowSteps s.arg.n s.arg.k else 0 := by
  rw [State.callLeft, if_neg h]

/-- A failure leaves RESPOND_FAIL alone, and a call with another micro-operation before it has two steps left or more. -/
theorem callLeft_lt_of_failure (ht : t.seq = .respondFail) (hs : s.seq.uop.isSome = true) (hf : s.seq ≠ .respondFail) :
    t.callLeft < s.callLeft := by
  have h2 : 2 ≤ s.seq.left s.cfg.checkOrder := two_le_left hs hf
  have ht1 : t.callLeft = 1 := by simp [State.callLeft, ht, Seq.left]
  have hle : s.seq.left s.cfg.checkOrder ≤ s.callLeft := Nat.le_add_right _ _
  omega

/-- Anywhere but at DISPATCH, going on takes one off the sequencer's steps and adds none of the workers'. -/
theorem callLeft_lt_of_next (hs : s.seq.uop.isSome = true) (hd : s.seq ≠ .dispatch) (hq : t.seq = nextSeq s.cfg.checkOrder s.seq)
    (hc : t.cfg = s.cfg) (ha : t.arg = s.arg) : t.callLeft < s.callLeft := by
  have hlt : t.seq.left t.cfg.checkOrder < s.seq.left s.cfg.checkOrder := by
    rw [hq, hc]
    exact left_nextSeq_lt hs
  by_cases hj : s.seq = .join
  · have htq : t.seq = .encode := by rw [hq, hj]; rfl
    have ht3 : t.callLeft = 3 := by simp [State.callLeft, htq, Seq.left]
    rw [callLeft_of_join hj]
    omega
  · rw [callLeft_of_ne_join hj, callLeft_of_ne_join (hq ▸ nextSeq_ne_join hd hj), ha]
    split_ifs <;> omega

theorem callLeft_dispatch (hs : s.seq = .dispatch) (hidle : ∀ x ∈ s.wk, x = .idle) (hx : execDispatch s = .next t) :
    t.callLeft < s.callLeft := by
  have hwork := workLeft_dispatch hidle hx
  have hj : t.seq = .join := by cases hx; rfl
  have hs5 : s.callLeft = 5 + s.arg.m * rowSteps s.arg.n s.arg.k := by simp [State.callLeft, hs, Seq.left]
  rw [callLeft_of_join hj, hwork, hs5]
  omega

/-! ### The step -/

theorem validate_progress (s : State) (here : Seq) (len rows cols : Nat) :
    (s.validate here len rows cols).faults ≠ [] ∨ (s.validate here len rows cols).seq = .respondFail ∨
      ((s.validate here len rows cols).seq = nextSeq s.cfg.checkOrder here ∧ (s.validate here len rows cols).arg = s.arg) := by
  obtain h | ⟨h, -⟩ | h := validate_cases s here len rows cols <;> rw [h]
  · exact .inl (raiseFault_faults_ne_nil s _)
  · exact .inr (.inr ⟨rfl, rfl⟩)
  · exact .inr (.inl rfl)

/-- A micro-operation of the sequencer that has a step records a model fault, raises a failure, or goes on to next(X) with the arguments as
they are (spec/40 R112). -/
theorem sequencer_progress (hr : s.sequencerReady = true) (hi : s.seq.uop = some i) (hx : exec i s = .next t) :
    t.faults ≠ [] ∨ (t.seq = .respondFail ∧ s.seq ≠ .respondFail) ∨ (t.seq = nextSeq s.cfg.checkOrder s.seq ∧ t.arg = s.arg) := by
  cases hs : s.seq <;> rw [hs] at hi <;> cases hi
  case validateA => cases hx; exact (validate_progress s _ _ _ _).imp_right (Or.imp_left fun h => ⟨h, nofun⟩)
  case validateB => cases hx; exact (validate_progress s _ _ _ _).imp_right (Or.imp_left fun h => ⟨h, nofun⟩)
  case sizeOut =>
    replace hx := execSizeOut_eq.symm.trans hx
    split at hx <;> cases hx
    · exact .inr (.inl ⟨rfl, nofun⟩)
    · exact .inr (.inr ⟨rfl, rfl⟩)
  case alloc =>
    obtain ⟨-, rfl⟩ | ⟨-, -, rfl⟩ | ⟨-, -, -, rfl⟩ | ⟨-, -, _, -, rfl⟩ := execAlloc_next hx
    · exact .inl (raiseFault_faults_ne_nil s _)
    · exact .inr (.inr ⟨rfl, rfl⟩)
    · exact .inr (.inl ⟨rfl, nofun⟩)
    · exact .inr (.inr ⟨rfl, rfl⟩)
  case decodeA => obtain ⟨-, rfl⟩ := execDecodeA_next hx; exact .inr (.inr ⟨rfl, rfl⟩)
  case decodeB => obtain ⟨-, rfl⟩ := execDecodeB_next hx; exact .inr (.inr ⟨rfl, rfl⟩)
  case accClear => cases hx; exact .inr (.inr ⟨rfl, rfl⟩)
  case dispatch => cases hx; exact .inr (.inr ⟨rfl, rfl⟩)
  case join =>
    obtain ⟨-, rfl⟩ | ⟨hno, -⟩ := execJoin_next hx
    · exact .inr (.inr ⟨rfl, rfl⟩)
    · obtain ⟨-, -, hall⟩ := sequencerReady_iff.mp hr
      exact absurd (isAllRows_iff.mpr (hall hs)) (Bool.eq_false_iff.mp hno)
  case encode =>
    obtain ⟨_, -, ⟨-, rfl⟩ | ⟨_, -, -, rfl⟩⟩ := execEncode_next hx
    · exact .inl (raiseFault_faults_ne_nil s _)
    · exact .inr (.inr ⟨rfl, rfl⟩)
  case respondOk => obtain ⟨_, -, rfl⟩ := execRespondOk_next hx; exact .inr (.inr ⟨rfl, rfl⟩)
  case respondFail =>
    cases hx
    refine .inr (.inr ⟨rfl, ?_⟩)
    change s.release.arg = s.arg
    unfold State.release
    split <;> rfl

theorem callLeft_sequencer (h : Consistent s) (hr : s.sequencerReady = true) (hi : s.seq.uop = some i) (hx : exec i s = .next t) :
    t.faults ≠ [] ∨ t.callLeft < s.callLeft := by
  have hs : s.seq.uop.isSome = true := by rw [hi]; rfl
  by_cases hd : s.seq = .dispatch
  · rw [hd] at hi
    cases hi
    exact .inr (callLeft_dispatch hd (h.idleOutside (by simp [hd]) (by simp [hd])) hx)
  · obtain hf | ⟨ht, hf⟩ | ⟨hq, ha⟩ := sequencer_progress hr hi hx
    · exact .inl hf
    · exact .inr (callLeft_lt_of_failure ht hs hf)
    · exact .inr (callLeft_lt_of_next hs hd hq (exec_carries hx).1.cfg ha)

theorem callLeft_worker (hj : s.seq = .join) (hi : workerStep s s.cur = some i) (hx : exec i s = .next t) :
    t.faults ≠ [] ∨ t.callLeft < s.callLeft := by
  have htj : t.seq = .join := (worker_seq (workerStep_ofWorker hi) hx).trans hj
  refine (workLeft_worker hi hx).imp_right fun hw => ?_
  rw [callLeft_of_join hj, callLeft_of_join htj]
  omega

/-- Settles O59: the sequencer and the Other step take one off the sequencer's count, a worker off the steps of the multiply phase. -/
theorem callsComeToAnEnd : Obligations.CallsComeToAnEnd := by
  intro s t h hh hn hx
  have htick : Consistent s.tick := { h with }
  obtain ⟨hm, -⟩ | ⟨hm, -⟩ | ⟨-, -, hr, i, hi, hx⟩ | ⟨-, -, hr, rfl⟩ | ⟨w, i, -, -, hj, -, hi, hx⟩ := step_next hx
  · exact absurd hm hn
  · exact absurd hm hh
  · exact callLeft_sequencer (s := s.tick) htick hr hi hx
  · obtain ⟨-, hidle, hdone, hf⟩ := otherReady_iff.mp hr
    exact .inr (callLeft_lt_of_failure rfl (Seq.uop_isSome_iff.mpr ⟨hidle, hdone⟩) hf)
  · exact callLeft_worker (s := { s.tick with cur := w }) hj hi hx

end Sys2Proof.Machine
end

section
/-! PROOFS. Failures: what an instruction does to STATUS.CODE and FAILCODE, and which micro-operations go to RESPOND_FAIL. -/

namespace Sys2Proof.Machine

variable {s t : State} {i : Instr}

/-- `i` raised its own failure, and nothing but FAILCODE and SEQ changed, for ALLOC also the count of draws (spec/40 R111, spec/60 R211). -/
def RaisedFailure (i : Instr) (s t : State) : Prop :=
  ((i = .validateA ∨ i = .validateB) ∧ t = s.raiseFailure codeBadArgument) ∨
  (i = .sizeOut ∧ t = s.raiseFailure codeOverflow) ∨
  (i = .alloc ∧ t = s.drawn.raiseFailure codeAllocationFailed)

/-- No failure is raised: FAILCODE stays, CODE stays or is cleared or posts FAILCODE, and RESPOND_FAIL is not entered. -/
structure NoFailure (s t : State) : Prop where
  failCode : t.failCode = s.failCode
  code : t.code = s.code ∨ t.code = 0 ∨ t.code = s.failCode
  seq : t.seq = .respondFail → s.seq = .respondFail

theorem NoFailure.of_eq (hf : t.failCode = s.failCode) (hc : t.code = s.code) (hq : t.seq = s.seq) : NoFailure s t :=
  ⟨hf, .inl hc, fun h => hq ▸ h⟩

/-- RESPOND_FAIL is no micro-operation's successor (spec/40 R112). -/
theorem nextSeq_ne_respondFail (o : CheckOrder) (x : Seq) : nextSeq o x ≠ .respondFail := by cases x <;> cases o <;> decide

theorem firstSeq_ne_respondFail (o : CheckOrder) : firstSeq o ≠ .respondFail := by cases o <;> decide

theorem NoFailure.goNext {x : Seq} (hf : t.failCode = s.failCode) (hc : t.code = s.code ∨ t.code = 0 ∨ t.code = s.failCode) :
    NoFailure s (t.goNext x) :=
  ⟨hf, hc, fun h => absurd h (nextSeq_ne_respondFail _ x)⟩

theorem validate_failure (s : State) (here : Seq) (len rows cols : Nat) :
    s.validate here len rows cols = s.raiseFailure codeBadArgument ∨ NoFailure s (s.validate here len rows cols) := by
  obtain h | ⟨h, -⟩ | h := validate_cases s here len rows cols <;> rw [h]
  · exact .inr (.of_eq rfl rfl rfl)
  · exact .inr (.goNext rfl (.inl rfl))
  · exact .inl rfl

theorem release_failCode (s : State) : s.release.failCode = s.failCode := by
  unfold State.release
  split <;> rfl

/-- Every instruction raises its own failure or none. -/
theorem exec_failure (hx : exec i s = .next t) : RaisedFailure i s t ∨ NoFailure s t := by
  cases i with
  | multiply =>
    obtain ⟨-, rfl⟩ | ⟨-, -, rfl⟩ | ⟨-, rfl⟩ | ⟨-, -, rfl⟩ | ⟨-, -, _, -, -, -, rfl⟩ := execMultiply_next hx
    on_goal 5 => exact .inr ⟨rfl, .inl rfl, fun h => absurd h (firstSeq_ne_respondFail _)⟩
    all_goals exact .inr (.of_eq rfl rfl rfl)
  | ack =>
    obtain ⟨-, rfl⟩ | ⟨-, rfl⟩ := execAck_next hx
    · exact .inr ⟨rfl, .inr (.inl rfl), nofun⟩
    · exact .inr (.of_eq rfl rfl rfl)
  | validateA => cases hx; exact (validate_failure s _ _ _ _).imp_left fun h => .inl ⟨.inl rfl, h⟩
  | validateB => cases hx; exact (validate_failure s _ _ _ _).imp_left fun h => .inl ⟨.inr rfl, h⟩
  | sizeOut =>
    replace hx := execSizeOut_eq.symm.trans hx
    split at hx <;> cases hx
    · exact .inl (.inr (.inl ⟨rfl, rfl⟩))
    · exact .inr (.goNext rfl (.inl rfl))
  | alloc =>
    obtain ⟨-, rfl⟩ | ⟨-, -, rfl⟩ | ⟨-, -, -, rfl⟩ | ⟨-, -, _, -, rfl⟩ := execAlloc_next hx
    · exact .inr (.of_eq rfl rfl rfl)
    · exact .inr (.goNext rfl (.inl rfl))
    · exact .inl (.inr (.inr ⟨rfl, rfl⟩))
    · exact .inr (.goNext rfl (.inl rfl))
  | decodeA => obtain ⟨-, rfl⟩ := execDecodeA_next hx; exact .inr (.goNext rfl (.inl rfl))
  | decodeB => obtain ⟨-, rfl⟩ := execDecodeB_next hx; exact .inr (.goNext rfl (.inl rfl))
  | accClear => cases hx; exact .inr (.goNext rfl (.inl rfl))
  | dispatch => cases hx; exact .inr (.goNext rfl (.inl rfl))
  | join =>
    obtain ⟨-, rfl⟩ | ⟨-, rfl⟩ := execJoin_next hx
    · exact .inr (.goNext rfl (.inl rfl))
    · exact .inr (.of_eq rfl rfl rfl)
  | encode =>
    obtain ⟨_, -, ⟨-, rfl⟩ | ⟨_, -, -, rfl⟩⟩ := execEncode_next hx
    · exact .inr (.of_eq rfl rfl rfl)
    · exact .inr (.goNext rfl (.inl rfl))
  | respondOk => obtain ⟨_, -, rfl⟩ := execRespondOk_next hx; exact .inr (.goNext rfl (.inr (.inl rfl)))
  | respondFail => cases hx; exact .inr (.goNext (release_failCode s) (.inr (.inr rfl)))
  | rowClaim => obtain ⟨-, ⟨-, rfl⟩ | ⟨-, _, -, rfl⟩⟩ := execRowClaim_next hx <;> exact .inr (.of_eq rfl rfl rfl)
  | elemInit => obtain ⟨_, _, _, -, -, rfl⟩ := execElemInit_next hx; exact .inr (.of_eq rfl rfl rfl)
  | group8 => obtain ⟨_, _, _, _, -, -, ⟨-, rfl⟩ | ⟨_, -, rfl⟩⟩ := execGroup8_next hx <;> exact .inr (.of_eq rfl rfl rfl)
  | mac1 => obtain ⟨_, _, _, _, -, -, -, ⟨-, rfl⟩ | ⟨_, -, rfl⟩⟩ := execMac1_next hx <;> exact .inr (.of_eq rfl rfl rfl)
  | elemStore => obtain ⟨_, _, _, _, -, -, rfl⟩ := execElemStore_next hx; exact .inr (.of_eq rfl rfl rfl)
  | rowDone => obtain ⟨_, _, _, -, -, rfl⟩ := execRowDone_next hx; exact .inr (.of_eq rfl rfl rfl)

/-- Settles O20: an instruction that raises no failure of its own does not go to RESPOND_FAIL. -/
theorem failuresComeFromTheirMicroOperations : Obligations.FailuresComeFromTheirMicroOperations := by
  intro i s t hx hs ht
  obtain hraised | hno := exec_failure hx
  · exact hraised
  · exact absurd (hno.seq ht) hs

/-! ### Code 4 without ADMIT_OTHER -/

/-- Neither STATUS.CODE nor FAILCODE is that of an Other failure (spec/60 R208). -/
def NotOther (s : State) : Prop := s.code ≠ 4 ∧ s.failCode ≠ 4

theorem NoFailure.notOther (h : NoFailure s t) (hs : NotOther s) : NotOther t := by
  obtain ⟨hc, hf⟩ := hs
  refine ⟨?_, h.failCode ▸ hf⟩
  obtain hcode | hcode | hcode := h.code <;> rw [hcode]
  · exact hc
  · decide
  · exact hf

theorem RaisedFailure.notOther (h : RaisedFailure i s t) (hs : NotOther s) : NotOther t := by
  obtain ⟨-, rfl⟩ | ⟨-, rfl⟩ | ⟨-, rfl⟩ := h <;> exact ⟨hs.1, by simp [codeBadArgument, codeOverflow, codeAllocationFailed]⟩

theorem NotOther.exec (hs : NotOther s) (hx : exec i s = .next t) : NotOther t :=
  (exec_failure hx).elim (·.notOther hs) (·.notOther hs)

theorem NotOther.hostStep (hs : NotOther s) (hx : hostStep s = .next t) : NotOther t := by
  obtain ⟨_, _, _, _, _, _, _, _, rfl, -⟩ | ⟨-, g, rfl⟩ | ⟨-, rfl⟩ := hostStep_effect hx
  · exact hs
  · exact hs
  · exact ⟨by simp [State.endCall], hs.2⟩

/-- Settles O19: only the Other step brings code 4 up, and without ADMIT_OTHER it is never ready. -/
theorem otherNeedsAdmission : Obligations.OtherNeedsAdmission := by
  intro s t hadmit (hs : NotOther s) hx
  obtain ⟨-, -, -, rfl⟩ | ⟨-, hx⟩ | ⟨-, -, -, i, -, hx⟩ | ⟨-, -, hr, -⟩ | ⟨w, i, -, -, -, -, -, hx⟩ := step_next hx
  · exact hs
  · exact NotOther.hostStep (s := s.tick) hs hx
  · exact NotOther.exec (s := s.tick) hs hx
  · exact absurd (otherReady_iff.mp hr).1 (Bool.eq_false_iff.mp hadmit)
  · exact NotOther.exec (s := { s.tick with cur := w }) hs hx

end Sys2Proof.Machine
end

section
/-! PROOFS. The commands and the call's own micro-operations, outcome by outcome: MULTIPLY turned away, matching lengths, ALLOC, and the two
responses. -/

namespace Sys2Proof.Machine

variable {s : State}

/-! ### MULTIPLY turned away -/

theorem latch_eq_none {r : OperandRegs} {q : OperandReg} (h : r.get q = none) : r.latch = none := by
  refine Option.eq_none_iff_forall_ne_some.mpr fun g hg => ?_
  rw [latch_eq_some] at hg
  subst hg
  cases q <;> cases h

/-- MULTIPLY in IDLE with every operand register written: the descriptors are checked first, then the marks (spec/40 R110, spec/70 R232). -/
theorem execMultiply_of_latch {g : Arg} (hs : s.seq = .idle) (hl : s.regs.latch = some g) :
    execMultiply s =
      if g.bufferA.inRange s.cfg && g.bufferB.inRange s.cfg then
        if s.unmarked then .next (s.startCall g) else .next s
      else .next (s.refuse .range) := by
  simp only [execMultiply, hs, ne_eq, not_true_eq_false, if_false, hl]

/-- Both descriptors are in range (spec/20 R68). -/
theorem bothInRange_iff {g : Arg} {c : Config} :
    (g.bufferA.inRange c && g.bufferB.inRange c) = true ↔ g.aBase + g.aLen ≤ 2 ^ c.sizeW ∧ g.bBase + g.bLen ≤ 2 ^ c.sizeW := by
  rw [Bool.and_eq_true, inRange_iff, inRange_iff]
  rfl

/-- Settles O22: each test of MULTIPLY that fails has its own outcome. -/
theorem multiplyIsTurnedAway : Obligations.MultiplyIsTurnedAway := by
  refine ⟨fun s hs => if_pos hs, fun s q hs hq => ?_, fun s aBase aLen bBase bLen m n k hs hregs hout => ?_,
    fun s aBase aLen bBase bLen m n k hs hmark hregs hA hB => ?_⟩
  · have hx : execMultiply s = .next (s.raiseFault .unsetRead) := by
      simp only [execMultiply, hs, ne_eq, not_true_eq_false, if_false, latch_eq_none hq]
    exact hx
  · have hl : s.regs.latch = some ⟨aBase, aLen, bBase, bLen, m, n, k⟩ := latch_eq_some.mpr hregs
    refine (execMultiply_of_latch hs hl).trans (if_neg fun hin => ?_)
    obtain ⟨hA, hB⟩ := bothInRange_iff.mp hin
    exact hout.elim (Nat.not_lt.mpr hA) (Nat.not_lt.mpr hB)
  · have hl : s.regs.latch = some ⟨aBase, aLen, bBase, bLen, m, n, k⟩ := latch_eq_some.mpr hregs
    refine (execMultiply_of_latch hs hl).trans ((if_pos (bothInRange_iff.mpr ⟨hA, hB⟩)).trans (if_neg fun hu => ?_))
    obtain ⟨hf, hr⟩ := unmarked_iff.mp hu
    exact hmark.elim (· hf) (· hr)

/-! ### Matching lengths -/

/-- A buffer of the true length, which fits, passes (spec/43 R178, R179). -/
theorem validate_of_length {here : Seq} {len rows cols : Nat} (hl : len = 2 * rows * cols) (hfit : len ≤ s.cfg.sizeMax) :
    s.validate here len rows cols = s.goNext here := by
  rw [Nat.mul_assoc] at hl
  have hno : ¬ s.cfg.sizeMax < 2 * (rows * cols) := by omega
  have hm : ¬ satMatches s.cfg len rows cols = true := fun h => hno ((satMatches_iff ..).mp h).1
  have hok : lenOK s.cfg len rows cols = true := by simp [lenOK, expectedLen_eq, hno, hl]
  rw [State.validate, if_neg hm, if_pos hok]

theorem nextSeq_validateB (o : CheckOrder) : nextSeq o .validateB = if o = .validateFirst then .sizeOut else .alloc := by cases o <;> rfl

/-- Settles O25: a true length passes, and next(X) is R112's. -/
theorem matchingLengthsPass : Obligations.MatchingLengthsPass := by
  refine ⟨fun s hl hfit => congrArg Host.Outcome.next (validate_of_length hl hfit), fun s hl hfit => ?_⟩
  rw [← nextSeq_validateB]
  exact congrArg Host.Outcome.next (validate_of_length hl hfit)

/-! ### ALLOC -/

/-- Settles O28: ALLOC of no bytes takes the empty grant, whose base is drawn below 2^ADDR_W. -/
theorem allocOfNothingSucceeds : Obligations.AllocOfNothingSucceeds := by
  intro s hcap h0
  refine ⟨_, Nat.mod_lt (Config.emptyBase s.draws) (Nat.two_pow_pos _), ?_⟩
  simp only [exec, execAlloc, hcap, Bool.false_eq_true, if_false, if_pos h0]
  rfl

/-- A product over its store's capacity puts the shape over capacity (spec/40 R114). -/
theorem overCapacity_of_lt {c : Nat}
    (h : (s.cfg.daCap = some c ∧ c < s.arg.m * s.arg.k) ∨ (s.cfg.dbCap = some c ∧ c < s.arg.k * s.arg.n) ∨
      (s.cfg.accCap = some c ∧ c < s.arg.m * s.arg.n)) : s.overCapacity = true := by
  obtain ⟨hc, hlt⟩ | ⟨hc, hlt⟩ | ⟨hc, hlt⟩ := h <;> simp [State.overCapacity, hc, within, Nat.not_le.mpr hlt]

/-- A request over MAX_ALLOC_BYTES fails (spec/40 R114). -/
theorem request_eq_none_of_lt {len b : Nat} (hb : s.cfg.maxAllocBytes = some b) (hlt : b < len) : s.request len = none :=
  Option.eq_none_iff_forall_ne_some.mpr fun _ hr => Nat.not_lt.mpr (le_of_within (request_eq_some hr).1 hb) hlt

/-- Settles O30: the capacities are tested before the request, which is refused over MAX_ALLOC_BYTES. -/
theorem allocLimits : Obligations.AllocLimits := by
  refine ⟨fun s c h => if_pos (overCapacity_of_lt h), fun s b hcap hne hb hlt => ?_⟩
  simp only [exec, execAlloc, hcap, Bool.false_eq_true, if_false, if_neg hne, request_eq_none_of_lt hb hlt]
  rfl

/-! ### The responses -/

/-- Settles O52: RESPOND_OK with a region to post. -/
theorem respondOkPostsTheResult : Obligations.RespondOkPostsTheResult := fun _ _ hr => execRespondOk_of_some hr

/-- Settles O53: with a region, RESPOND_FAIL redraws the bytes of that region alone. -/
theorem respondFailPostsTheFailure : Obligations.RespondFailPostsTheFailure := by
  refine ⟨fun s hr => ?_, fun s r hr => ⟨Memory.fill (Config.regionByte s.draws) s.mem r.base r.len, ?_, fun a ha => ?_⟩⟩
  · simp only [exec, execRespondFail, release_of_none hr]
    rfl
  · simp only [exec, execRespondFail, release_of_some hr]
    rfl
  · exact Memory.byteAt_fill_other ha

end Sys2Proof.Machine
end

section
/-! PROOFS. The conversions pattern by pattern: DEC16 is exact where there is no NaN, and a NaN of either format becomes a NaN of its sign. -/

namespace Sys2Proof

/-! ### DEC16 case by case (spec/41 R130) -/

theorem dec16_of_zero (mode : NanMap) {h : Half} (he : Half.exp h = 0) (hf : Half.frac h = 0) :
    dec16 mode h = Single.pack (Half.sign h) 0 0 := by
  rw [dec16, if_neg (by omega), if_pos he, if_pos hf]

theorem dec16_of_subnormal (mode : NanMap) {h : Half} (he : Half.exp h = 0) (hf : Half.frac h ≠ 0) :
    dec16 mode h = Single.pack (Half.sign h) (Nat.log2 (Half.frac h) + 103)
      (Half.frac h * 2 ^ (23 - Nat.log2 (Half.frac h)) % 2 ^ 23) := by
  rw [dec16, if_neg (by omega), if_pos he, if_neg hf]

theorem dec16_of_normal (mode : NanMap) {h : Half} (he : Half.exp h ≠ 0) (h31 : Half.exp h ≠ 31) :
    dec16 mode h = Single.pack (Half.sign h) (Half.exp h + 112) (Half.frac h * 2 ^ 13) := by
  rw [dec16, if_neg h31, if_neg he]

theorem dec16_of_inf (mode : NanMap) {h : Half} (hinf : Half.isInf h = true) : dec16 mode h = Single.pack (Half.sign h) 255 0 := by
  obtain ⟨he, hf⟩ := of_decide_eq_true hinf
  rw [dec16, if_pos he, if_pos hf]

theorem dec16_of_nan (mode : NanMap) {h : Half} (hn : Half.isNan h = true) : dec16 mode h = nan16to32 mode h := by
  obtain ⟨he, hf⟩ := of_decide_eq_true hn
  rw [dec16, if_pos he, if_neg hf]

/-! ### DEC16 is exact (spec/41 R132) -/

theorem Single.mag_pack {s e f : Nat} (hs : s < 2) (he : e < 256) (hf : f < 2 ^ 23) :
    Single.mag (Single.pack s e f) = if e = 0 then f else (2 ^ 23 + f) * 2 ^ (e - 1) := by
  have hb : e * 2 ^ 23 + f < 2 ^ 31 := by omega
  rw [Single.mag, Single.pack_exp hs hb, Single.pack_frac hs hb, Nat.div_eq_of_lt hf, Nat.mod_eq_of_lt hf, Nat.add_zero]

/-- A fraction shifted up until its top bit is bit 23, where the format leaves that bit out. -/
theorem frac_normalized {f : Nat} (h0 : f ≠ 0) (hf : f < 2 ^ 10) :
    2 ^ 23 + f * 2 ^ (23 - Nat.log2 f) % 2 ^ 23 = f * 2 ^ (23 - Nat.log2 f) := by
  have ht : Nat.log2 f < 10 := (Nat.log2_lt h0).mpr hf
  have hp := Nat.two_pow_pos (23 - Nat.log2 f)
  have hlo : 2 ^ Nat.log2 f * 2 ^ (23 - Nat.log2 f) ≤ f * 2 ^ (23 - Nat.log2 f) := Nat.mul_le_mul_right _ (Nat.log2_self_le h0)
  have hhi : f * 2 ^ (23 - Nat.log2 f) < 2 ^ (Nat.log2 f + 1) * 2 ^ (23 - Nat.log2 f) := Nat.mul_lt_mul_of_pos_right Nat.lt_log2_self hp
  rw [← pow_add, show Nat.log2 f + (23 - Nat.log2 f) = 23 by omega] at hlo
  rw [← pow_add, show Nat.log2 f + 1 + (23 - Nat.log2 f) = 24 by omega] at hhi
  omega

/-- DEC16 of a finite pattern: the fields of a finite fp32 pattern of its sign and, 2^-24 being 2^125 of the finer units, of its magnitude. -/
theorem dec16_of_finite (mode : NanMap) {h : Half} (hfin : Half.isFinite h = true) :
    ∃ e f, e < 255 ∧ f < 2 ^ 23 ∧ dec16 mode h = Single.pack (Half.sign h) e f ∧
      Single.mag (dec16 mode h) = Half.mag h * 2 ^ 125 := by
  have hs := Half.sign_lt h
  have hf := Half.frac_lt h
  have he := Half.exp_lt h
  have h31 : Half.exp h ≠ 31 := of_decide_eq_true hfin
  by_cases h0 : Half.exp h = 0
  · by_cases hz : Half.frac h = 0
    · refine ⟨_, _, by omega, by omega, dec16_of_zero mode h0 hz, ?_⟩
      rw [dec16_of_zero mode h0 hz, Single.mag_pack hs (by omega) (by omega), if_pos rfl, Half.mag, if_pos h0, hz, Nat.zero_mul]
    · have ht : Nat.log2 (Half.frac h) < 10 := (Nat.log2_lt hz).mpr hf
      have hm : Half.frac h * 2 ^ (23 - Nat.log2 (Half.frac h)) % 2 ^ 23 < 2 ^ 23 := Nat.mod_lt _ (by omega)
      refine ⟨_, _, by omega, hm, dec16_of_subnormal mode h0 hz, ?_⟩
      rw [dec16_of_subnormal mode h0 hz, Single.mag_pack hs (by omega) hm, if_neg (by omega), frac_normalized hz hf, Half.mag,
        if_pos h0, mul_assoc, ← pow_add, show 23 - Nat.log2 (Half.frac h) + (Nat.log2 (Half.frac h) + 103 - 1) = 125 by omega]
  · refine ⟨_, _, by omega, by omega, dec16_of_normal mode h0 h31, ?_⟩
    rw [dec16_of_normal mode h0 h31, Single.mag_pack hs (by omega) (by omega), if_neg (by omega), Half.mag, if_neg h0,
      show Half.exp h + 112 - 1 = Half.exp h - 1 + 112 by omega]
    ring

/-- Settles O33: a pattern that is not a NaN is finite or an infinity, and each has its fields from DEC16. -/
theorem decodingIsExact : Obligations.DecodingIsExact := by
  intro mode h hn
  have hs := Half.sign_lt h
  by_cases he : Half.exp h = 31
  · have hinf : Half.isInf h = true := by simpa [Half.isNan, Half.isInf, he] using hn
    have hb : 255 * 2 ^ 23 + 0 < 2 ^ 31 := by decide
    rw [dec16_of_inf mode hinf, hinf, Single.isInf, Single.pack_sign hs hb, Single.pack_exp hs hb, Single.pack_frac hs hb]
    exact ⟨rfl, rfl, fun hfin => absurd he (of_decide_eq_true hfin)⟩
  · obtain ⟨e, f, hE, hF, hd, hmag⟩ := dec16_of_finite mode (decide_eq_true he)
    have hb : e * 2 ^ 23 + f < 2 ^ 31 := by omega
    have hsign : Single.sign (dec16 mode h) = Half.sign h := by rw [hd, Single.pack_sign hs hb]
    have hexp : Single.exp (dec16 mode h) ≠ 255 := by rw [hd, Single.pack_exp hs hb]; omega
    refine ⟨hsign, by simp [Single.isInf, Half.isInf, hexp, he], fun _ => ⟨decide_eq_true hexp, ?_⟩⟩
    rw [Single.val, Half.val, hsign, hmag]
    split <;> simp

/-! ### NaNs (spec/41 R131, spec/44 R191, spec/42 R160) -/

/-- The fields of a pattern do not overlap: joining their bits adds them. -/
theorem fields_or {s e f a b : Nat} (hf : f < 2 ^ b) (he : e * 2 ^ b + f < 2 ^ a) :
    s * 2 ^ a ||| (e * 2 ^ b ||| f) = s * 2 ^ a + e * 2 ^ b + f := by
  rw [Nat.mul_comm e, ← Nat.two_pow_add_eq_or_of_lt hf, Nat.mul_comm s,
    ← Nat.two_pow_add_eq_or_of_lt (by rwa [Nat.mul_comm (2 ^ b)]), Nat.add_assoc]

/-- The fraction the default NAN16TO32 gives: the payload at the top, and the quiet bit. -/
def widenedPayload (h : Half) : Nat := 2 ^ 22 ||| Half.frac h * 2 ^ 13

/-- The fraction the default NAN32TO16 gives: the top of the payload, and the quiet bit. -/
def narrowedPayload (x : Single) : Nat := 2 ^ 9 ||| Single.frac x / 2 ^ 13

theorem widenedPayload_lt (h : Half) : widenedPayload h < 2 ^ 23 :=
  Nat.or_lt_two_pow (by decide) (by have := Half.frac_lt h; omega)

theorem narrowedPayload_lt (x : Single) : narrowedPayload x < 2 ^ 10 :=
  Nat.or_lt_two_pow (by decide) (by have := Single.frac_lt x; omega)

theorem widenedPayload_ne_zero (h : Half) : widenedPayload h ≠ 0 := Nat.ne_of_gt (Nat.lt_of_lt_of_le (by decide) Nat.left_le_or)

theorem narrowedPayload_ne_zero (x : Single) : narrowedPayload x ≠ 0 := Nat.ne_of_gt (Nat.lt_of_lt_of_le (by decide) Nat.left_le_or)

/-- The default NAN16TO32 in fields. -/
theorem nan16to32_quieting (h : Half) : nan16to32 .quieting h = Single.pack (Half.sign h) 255 (widenedPayload h) := by
  have hs := Half.sign_lt h
  have hf := Half.frac_lt h
  have hw := widenedPayload_lt h
  apply BitVec.eq_of_toNat_eq
  rw [Single.pack_toNat hs (by omega), ← fields_or hw (by omega), widenedPayload, ← Nat.or_assoc (255 * 2 ^ 23), ← Nat.or_assoc]
  simp only [nan16to32, BitVec.toNat_or, BitVec.toNat_ofNat]
  rw [Nat.mod_eq_of_lt (by omega), Nat.mod_eq_of_lt (a := Half.frac h * 2 ^ 13) (by omega)]
  rfl

/-- The default NAN32TO16 in fields. -/
theorem nan32to16_quieting (x : Single) : nan32to16 .quieting x = Half.pack (Single.sign x) 31 (narrowedPayload x) := by
  have hs := Single.sign_lt x
  have hf := Single.frac_lt x
  have hw := narrowedPayload_lt x
  apply BitVec.eq_of_toNat_eq
  rw [Half.pack_toNat hs (by omega), ← fields_or hw (by omega), narrowedPayload, ← Nat.or_assoc (31 * 2 ^ 10), ← Nat.or_assoc]
  simp only [nan32to16, BitVec.toNat_or, BitVec.toNat_ofNat]
  rw [Nat.mod_eq_of_lt (by omega), Nat.mod_eq_of_lt (a := Single.frac x / 2 ^ 13) (by omega)]
  rfl

/-- NAN16TO32 of either kind gives a NaN of the input's sign. -/
theorem nan16to32_isNan (mode : NanMap) (h : Half) :
    Single.isNan (nan16to32 mode h) = true ∧ Single.sign (nan16to32 mode h) = Half.sign h := by
  have hs := Half.sign_lt h
  cases mode with
  | quieting =>
    have hn := Single.nanOf_isNan hs (widenedPayload_lt h)
    rwa [Single.nanOf, if_neg (widenedPayload_ne_zero h), ← nan16to32_quieting] at hn
  | uninterpreted => exact Single.nanOf_isNan hs (Single.frac_lt _)

/-- NAN32TO16 of either kind gives a NaN of the input's sign. -/
theorem nan32to16_isNan (mode : NanMap) (x : Single) :
    Half.isNan (nan32to16 mode x) = true ∧ Half.sign (nan32to16 mode x) = Single.sign x := by
  have hs := Single.sign_lt x
  cases mode with
  | quieting =>
    have hn := Half.nanOf_isNan hs (narrowedPayload_lt x)
    rwa [Half.nanOf, if_neg (narrowedPayload_ne_zero x), ← nan32to16_quieting] at hn
  | uninterpreted => exact Half.nanOf_isNan hs (Half.frac_lt _)

theorem enc16_of_nan (mode : NanMap) {x : Single} (hn : Single.isNan x = true) : enc16 mode x = nan32to16 mode x := by
  obtain ⟨he, hf⟩ := of_decide_eq_true hn
  rw [enc16]
  exact (if_pos he).trans (if_neg hf)

/-- The payload below the quiet bit survives the default NAN16TO32. -/
theorem nan16to32_quieting_payload (h : Half) : (nan16to32 .quieting h).toNat % 2 ^ 22 = Half.frac h * 2 ^ 13 % 2 ^ 22 := by
  have hw := widenedPayload_lt h
  rw [nan16to32_quieting, Single.pack_toNat (Half.sign_lt h) (by omega)]
  calc (Half.sign h * 2 ^ 31 + 255 * 2 ^ 23 + widenedPayload h) % 2 ^ 22
      = widenedPayload h % 2 ^ 22 := by omega
    _ = Half.frac h * 2 ^ 13 % 2 ^ 22 := by rw [widenedPayload, Nat.or_mod_two_pow, Nat.mod_self, Nat.zero_or]

/-- The top payload bits below the quiet bit survive the default NAN32TO16. -/
theorem nan32to16_quieting_payload (x : Single) : (nan32to16 .quieting x).toNat % 2 ^ 9 = Single.frac x / 2 ^ 13 % 2 ^ 9 := by
  have hw := narrowedPayload_lt x
  rw [nan32to16_quieting, Half.pack_toNat (Single.sign_lt x) (by omega)]
  calc (Single.sign x * 2 ^ 15 + 31 * 2 ^ 10 + narrowedPayload x) % 2 ^ 9
      = narrowedPayload x % 2 ^ 9 := by omega
    _ = Single.frac x / 2 ^ 13 % 2 ^ 9 := by rw [narrowedPayload, Nat.or_mod_two_pow, Nat.mod_self, Nat.zero_or]

/-- Settles O35: a conversion sends a NaN through its map, and each map gives a NaN of the sign, with the payload under the default. -/
theorem nansStayNans : Obligations.NansStayNans := by
  refine ⟨fun mode h hn => ?_, fun mode x hn => ?_, fun h hn => ?_, fun x hn => ?_, fun d q => ?_⟩
  · rw [dec16_of_nan mode hn]
    exact nan16to32_isNan mode h
  · rw [enc16_of_nan mode hn]
    exact nan32to16_isNan mode x
  · rw [dec16_of_nan _ hn]
    exact nan16to32_quieting_payload h
  · rw [enc16_of_nan _ hn]
    exact nan32to16_quieting_payload x
  · exact (Single.nanOf_isNan (Single.sign_lt _) (Single.frac_lt _)).1

end Sys2Proof
end

section
/-! PROOFS. DECODE_A and DECODE_B fill their stores from the buffers, element by element. -/

namespace Sys2Proof.Machine

/-- The store after decoding `cnt` elements of a buffer into it: cell `e` is DEC16 of the two bytes of element `e`, low byte first
(spec/41 R133, R134; spec/20 R63). -/
theorem cellAt_overwrite_decodeElems (c : Config) (m : Memory) (base cnt : Nat) {cells : List Cell} {e : Nat} (he : e < cells.length) :
    cellAt (overwrite (decodeElems c m base cnt) cells) e =
      if e < cnt then some (dec16 c.nan16to32 (m.byteAt (base + 2 * e + 1) ++ m.byteAt (base + 2 * e))) else cellAt cells e := by
  rw [cellAt_overwrite _ _ he]
  simp [decodeElems, Memory.read16]

/-- Whole groups that lie in the address space are readable (spec/20 R60). -/
theorem readable_of_le {s : State} {base cnt : Nat} (h : base + 2 * cnt ≤ 2 ^ s.cfg.sizeW) : s.readable base cnt = true :=
  decide_eq_true (.inr h)

/-- Settles O31: the store is overwritten with the decoded elements of buffer a. -/
theorem decodeAFillsItsStore : Obligations.DecodeAFillsItsStore := fun _ hin =>
  ⟨_, if_pos (readable_of_le hin), overwrite_length .., fun _ he => cellAt_overwrite_decodeElems _ _ _ _ he⟩

/-- Settles O32: the store is overwritten with the decoded elements of buffer b. -/
theorem decodeBFillsItsStore : Obligations.DecodeBFillsItsStore := fun _ hin =>
  ⟨_, if_pos (readable_of_le hin), overwrite_length .., fun _ he => cellAt_overwrite_decodeElems _ _ _ _ he⟩

end Sys2Proof.Machine
end

section
/-! PROOFS. fp32 addition and multiplication line by line of their rules, and the product of two decoded halves, which is exact. -/

namespace Sys2Proof

variable {x y : Single} {mag s sc : Nat}

/-! ### The kinds of pattern exclude each other (spec/30 R98) -/

theorem Single.not_nan_zero_of_isInf (h : Single.isInf x = true) : Single.isNan x = false ∧ Single.isZero x = false := by
  obtain ⟨he, hf⟩ := of_decide_eq_true h
  simp [Single.isNan, Single.isZero, he, hf]

theorem Single.not_nan_inf_of_isFinite (h : Single.isFinite x = true) : Single.isNan x = false ∧ Single.isInf x = false := by
  have he : Single.exp x ≠ 255 := of_decide_eq_true h
  simp [Single.isNan, Single.isInf, he]

/-- An infinity is known by its sign. -/
theorem Single.eq_pack_of_isInf (h : Single.isInf x = true) : x = Single.pack (Single.sign x) 255 0 := by
  obtain ⟨he, hf⟩ := of_decide_eq_true h
  rw [← he, ← hf, Single.pack_fields]

/-- A magnitude of 0 is that of the zeros. -/
theorem Single.mag_eq_zero_iff : Single.mag x = 0 ↔ Single.isZero x = true := by
  unfold Single.mag Single.isZero
  split <;> simp [*]

/-! ### Addition (spec/42 R158) -/

theorem fadd_of_opposite_infs (nan : Single) (hx : Single.isInf x = true) (hy : Single.isInf y = true)
    (hs : Single.sign x ≠ Single.sign y) : fadd nan x y = nan := by
  simp [fadd, Single.not_nan_zero_of_isInf, hx, hy, hs]

theorem fadd_of_isInf_left (nan : Single) (hx : Single.isInf x = true) (hy : Single.isNan y = false)
    (hs : Single.isInf y = true → Single.sign x = Single.sign y) : fadd nan x y = x := by
  have hsame : ¬((Single.isInf x && Single.isInf y && decide (Single.sign x ≠ Single.sign y)) = true) := by simpa [hx] using hs
  rw [fadd, (Single.not_nan_zero_of_isInf hx).1, hy, if_neg (by decide), if_neg hsame, if_pos hx]

/-- An infinity added on the right is the result: beside another infinity, because the two are the same pattern. -/
theorem fadd_of_isInf_right (nan : Single) (hy : Single.isInf y = true) (hx : Single.isNan x = false)
    (hs : Single.isInf x = true → Single.sign x = Single.sign y) : fadd nan x y = y := by
  by_cases hinf : Single.isInf x = true
  · rw [fadd_of_isInf_left nan hinf (Single.not_nan_zero_of_isInf hy).1 fun _ => hs hinf, Single.eq_pack_of_isInf hinf, hs hinf,
      ← Single.eq_pack_of_isInf hy]
  · simp [fadd, Single.not_nan_zero_of_isInf hy, hx, hy, hinf]

theorem fadd_of_isFinite (nan : Single) (hx : Single.isFinite x = true) (hy : Single.isFinite y = true) :
    fadd nan x y =
      if Single.val x + Single.val y ≠ 0 then
        fl32 (if Single.val x + Single.val y < 0 then 1 else 0) (Single.val x + Single.val y).natAbs 149
      else if x = Single.negZero ∧ y = Single.negZero then Single.negZero
      else Single.posZero := by
  simp [fadd, Single.not_nan_inf_of_isFinite hx, Single.not_nan_inf_of_isFinite hy]

/-- Settles O37: one lemma for each line of the rule. -/
theorem additionFollowsItsRule : Obligations.AdditionFollowsItsRule := by
  refine fun nan x y => ⟨Machine.fadd_of_isNan nan, fadd_of_opposite_infs nan, fadd_of_isInf_left nan, fadd_of_isInf_right nan,
    fun hx hy => ?_⟩
  rw [fadd_of_isFinite nan hx hy]
  refine ⟨fun h0 => if_neg (not_not.mpr h0), fun hpos => ?_, fun hneg => ?_⟩
  · rw [if_pos hpos.ne', if_neg hpos.not_gt]
  · rw [if_pos hneg.ne, if_pos hneg]

/-! ### Multiplication (spec/42 R159) -/

/-- The exclusive or of two signs. -/
theorem Single.sign_xor (x y : Single) : (Single.sign x + Single.sign y) % 2 = if Single.sign x = Single.sign y then 0 else 1 := by
  have hx := Single.sign_lt x
  have hy := Single.sign_lt y
  split <;> omega

theorem fmul_of_isNan (nan : Single) (h : Single.isNan x = true ∨ Single.isNan y = true) : fmul nan x y = nan := by
  simp [fmul, h]

theorem fmul_of_inf_zero (nan : Single)
    (h : (Single.isInf x = true ∧ Single.isZero y = true) ∨ (Single.isZero x = true ∧ Single.isInf y = true)) : fmul nan x y = nan := by
  simp [fmul, h]

/-- An infinity times what is neither a NaN nor a zero is an infinity. -/
theorem fmul_of_isInf (nan : Single) (hx : Single.isNan x = false ∧ Single.isZero x = false)
    (hy : Single.isNan y = false ∧ Single.isZero y = false) (h : Single.isInf x = true ∨ Single.isInf y = true) :
    fmul nan x y = Single.pack ((Single.sign x + Single.sign y) % 2) 255 0 := by
  simp [fmul, hx, hy, h]

theorem fmul_of_isFinite (nan : Single) (hx : Single.isFinite x = true) (hy : Single.isFinite y = true) :
    fmul nan x y =
      if Single.mag x * Single.mag y = 0 then Single.pack ((Single.sign x + Single.sign y) % 2) 0 0
      else fl32 ((Single.sign x + Single.sign y) % 2) (Single.mag x * Single.mag y) 298 := by
  simp [fmul, Single.not_nan_inf_of_isFinite hx, Single.not_nan_inf_of_isFinite hy]

/-- Settles O38: one lemma for each line of the rule. -/
theorem multiplicationFollowsItsRule : Obligations.MultiplicationFollowsItsRule := by
  intro nan x y
  rw [← Single.sign_xor x y]
  refine ⟨fmul_of_isNan nan, fun hx hy => fmul_of_inf_zero nan (.inl ⟨hx, hy⟩), fun hx hy => fmul_of_inf_zero nan (.inr ⟨hx, hy⟩),
    fun hx hn hz => fmul_of_isInf nan (Single.not_nan_zero_of_isInf hx) ⟨hn, hz⟩ (.inl hx),
    fun hy hn hz => fmul_of_isInf nan ⟨hn, hz⟩ (Single.not_nan_zero_of_isInf hy) (.inr hy), fun hx hy => ?_⟩
  simp only [fmul_of_isFinite nan hx hy, Nat.mul_eq_zero, Single.mag_eq_zero_iff]

/-! ### The product of two decoded halves (spec/42 R162, R163) -/

/-- fl32 keeps a magnitude of at most 24 bits that is a multiple of the unit 2^-149 and is under the overflow. -/
theorem mag_fl32_exact {c k : Nat} (hs : s < 2) (hm : 0 < mag) (hsc : 149 ≤ sc) (hmag : mag = c * 2 ^ (sc - 149 + k)) (hc : c < 2 ^ 24)
    (hlt : mag < (2 ^ 128 - 2 ^ 103) * 2 ^ sc) : Single.mag (fl32 s mag sc) = c * 2 ^ k := by
  obtain ⟨d, hg, hfl⟩ := fl32_eq hm s sc
  have hb : ¬255 * 2 ^ 23 ≤ roundedBits mag (sc - 149) d := by
    rw [hg.overflow_iff, Nat.sub_add_cancel hsc]
    exact Nat.not_le.mpr hlt
  have hd : d ≤ k := by
    obtain rfl | hle := hg.le
    · exact Nat.zero_le k
    · have : 2 ^ (23 + (sc - 149 + d)) < 2 ^ (24 + (sc - 149 + k)) := by
        rw [pow_add, pow_add 2 24]
        exact hle.trans_lt (hmag ▸ Nat.mul_lt_mul_of_pos_right hc (Nat.two_pow_pos _))
      have := (Nat.pow_lt_pow_iff_right (by omega)).mp this
      omega
  have hround : roundEven mag (sc - 149 + d) = c * 2 ^ (k - d) := by
    rw [hmag, show sc - 149 + k = k - d + (sc - 149 + d) by omega, pow_add, ← mul_assoc, roundEven_exact]
  obtain ⟨hr, hr'⟩ := hg.roundEven_bounds
  rw [hfl, if_neg hb, roundedBits, Single.mag_pack_bits hs hr hr' (Nat.not_le.mp hb), hround, mul_assoc, ← pow_add, Nat.sub_add_cancel hd]

/-- A magnitude of at most 22 bits is far under the overflow where its unit is at most 2^10. -/
theorem lt_overflow {c k : Nat} (hc : c < 2 ^ 22) (hk : k ≤ sc + 10) : c * 2 ^ k < (2 ^ 128 - 2 ^ 103) * 2 ^ sc := by
  calc c * 2 ^ k ≤ c * 2 ^ (sc + 10) := Nat.mul_le_mul_left _ (Nat.pow_le_pow_right (by omega) hk)
    _ = c * 2 ^ 10 * 2 ^ sc := by ring
    _ < (2 ^ 128 - 2 ^ 103) * 2 ^ sc := Nat.mul_lt_mul_of_pos_right (by omega) (Nat.two_pow_pos _)

/-- A finite half has 11 bits, and its greatest exponent is 29 above the least. -/
theorem Half.mag_eq_mul_pow {h : Half} (hfin : Half.isFinite h = true) : ∃ c e, c < 2 ^ 11 ∧ e ≤ 29 ∧ Half.mag h = c * 2 ^ e := by
  have hf := Half.frac_lt h
  have he := Half.exp_lt h
  have h31 : Half.exp h ≠ 31 := of_decide_eq_true hfin
  unfold Half.mag
  split
  · exact ⟨Half.frac h, 0, by omega, by omega, (Nat.mul_one _).symm⟩
  · exact ⟨2 ^ 10 + Half.frac h, Half.exp h - 1, by omega, by omega, rfl⟩

theorem Half.val_eq (h : Half) : Half.val h = (-1) ^ Half.sign h * (Half.mag h : Int) := by
  have hs := Half.sign_lt h
  obtain h0 | h1 : Half.sign h = 0 ∨ Half.sign h = 1 := by omega
  · simp [Half.val, h0]
  · simp [Half.val, h1]

theorem Single.val_eq (x : Single) : Single.val x = (-1) ^ Single.sign x * (Single.mag x : Int) := by
  have hs := Single.sign_lt x
  obtain h0 | h1 : Single.sign x = 0 ∨ Single.sign x = 1 := by omega
  · simp [Single.val, h0]
  · simp [Single.val, h1]

/-- The product of finite patterns of magnitudes `a * 2^125` and `b * 2^125`, where fl32 keeps `a * b`: its sign and its magnitude, in the
units of 2^-149 (2^250 being 2^149 * 2^101). -/
theorem fmul_exact (nan : Single) (hx : Single.isFinite x = true) (hy : Single.isFinite y = true) {a b c k : Nat}
    (ha : Single.mag x = a * 2 ^ 125) (hb : Single.mag y = b * 2 ^ 125) (hab : a * b = c * 2 ^ k) (hc : c < 2 ^ 22) (hk : k ≤ 58) :
    Single.isFinite (fmul nan x y) = true ∧ Single.sign (fmul nan x y) = (Single.sign x + Single.sign y) % 2 ∧
      Single.mag (fmul nan x y) = a * b * 2 ^ 101 := by
  have hs : (Single.sign x + Single.sign y) % 2 < 2 := Nat.mod_lt _ (by omega)
  have hq : Single.mag x * Single.mag y = c * 2 ^ (k + 250) := by
    rw [ha, hb, show a * 2 ^ 125 * (b * 2 ^ 125) = a * b * 2 ^ 250 by ring, hab]
    ring
  rw [fmul_of_isFinite nan hx hy]
  split
  · rename_i h0
    have hc0 : c = 0 := (Nat.mul_eq_zero.mp (hq.symm.trans h0)).resolve_right (Nat.two_pow_pos _).ne'
    have hfit : 0 * 2 ^ 23 + 0 < 2 ^ 31 := by decide
    rw [Single.isFinite, Single.pack_exp hs hfit, Single.pack_sign hs hfit, Single.mag_pack hs (by decide) (by decide), hab, hc0]
    simp
  · rename_i h0
    have hlt : Single.mag x * Single.mag y < (2 ^ 128 - 2 ^ 103) * 2 ^ 298 := hq.trans_lt (lt_overflow hc (by omega))
    obtain ⟨hfin, hsign, -⟩ := (roundingIsToNearestEven _ _ 298 hs (Nat.pos_of_ne_zero h0) (by omega)).2 hlt
    refine ⟨hfin, hsign, ?_⟩
    have hgrid : Single.mag x * Single.mag y = c * 2 ^ (298 - 149 + (k + 101)) := by
      rw [hq, show k + 250 = 298 - 149 + (k + 101) by omega]
    rw [mag_fl32_exact hs (Nat.pos_of_ne_zero h0) (by omega) hgrid (by omega) hlt, hab]
    ring

/-- A finite pattern of 2^23 units or more is normal. -/
theorem Single.exp_ne_zero_of_mag (h : 2 ^ 23 ≤ Single.mag x) : Single.exp x ≠ 0 := by
  intro he
  have hf := Single.frac_lt x
  rw [Single.mag, if_pos he] at h
  omega

/-- Settles O39: a product of two 11-bit magnitudes has 22 bits, so fl32 keeps it, and 2^101 units or none. -/
theorem productsOfHalvesAreExact : Obligations.ProductsOfHalvesAreExact := by
  intro mode nan h g hh hg
  obtain ⟨_, _, -, -, -, hmh⟩ := dec16_of_finite mode hh
  obtain ⟨_, _, -, -, -, hmg⟩ := dec16_of_finite mode hg
  obtain ⟨c, e, hc, he, hch⟩ := Half.mag_eq_mul_pow hh
  obtain ⟨c', e', hc', he', hcg⟩ := Half.mag_eq_mul_pow hg
  obtain ⟨hsh, -, hfh⟩ := decodingIsExact mode h (by simp_all [Half.isNan, Half.isFinite])
  obtain ⟨hsg, -, hfg⟩ := decodingIsExact mode g (by simp_all [Half.isNan, Half.isFinite])
  have hab : Half.mag h * Half.mag g = c * c' * 2 ^ (e + e') := by rw [hch, hcg]; ring
  obtain ⟨hfin, hsign, hmag⟩ := fmul_exact nan (hfh hh).1 (hfg hg).1 hmh hmg hab
    ((Nat.mul_lt_mul'' hc hc').trans_eq (by norm_num)) (by omega)
  rw [hsh, hsg] at hsign
  refine ⟨hfin, ?_, hsign, fun h0 => Single.exp_ne_zero_of_mag ?_⟩
  · rw [Single.val_eq, hsign, hmag, ← neg_one_pow_eq_pow_mod_two, pow_add, Half.val_eq, Half.val_eq]
    push_cast
    ring
  · rw [hmag] at h0 ⊢
    exact (by norm_num : 2 ^ 23 ≤ 1 * 2 ^ 101).trans (Nat.mul_le_mul_right _ (Nat.pos_of_ne_zero (left_ne_zero_of_mul h0)))

end Sys2Proof
end

section
/-! PROOFS. The engine: what the sequencer's ACC_CLEAR, DISPATCH and JOIN do, and each micro-operation of a worker in its operand form. -/

namespace Sys2Proof.Machine

variable {s : State}

/-! ### The sequencer's steps -/

/-- Overwriting a store with as many values as it has cells sets every cell. -/
theorem overwrite_eq_map {vs : List Single} {cs : List Cell} (h : vs.length = cs.length) : overwrite vs cs = vs.map some := by
  induction vs generalizing cs with
  | nil =>
    obtain rfl := List.length_eq_zero_iff.mp h.symm
    rfl
  | cons v vs ih =>
    cases cs with
    | nil => cases h
    | cons c cs => rw [overwrite, ih (Nat.succ.inj h), List.map_cons]

/-- Settles O41: ACC is overwritten with as many +0.0 as it has cells. -/
theorem accClearZeroesEveryCell : Obligations.AccClearZeroesEveryCell := by
  intro s hlen
  have hacc : overwrite (List.replicate (s.arg.m * s.arg.n) Single.posZero) s.acc =
      List.replicate (s.arg.m * s.arg.n) (some 0x00000000) := by
    rw [overwrite_eq_map (by rw [List.length_replicate, hlen]), List.map_replicate]
    rfl
  simp only [exec, execAccClear, hacc]
  rfl

/-- Settles O42: the rows are listed in rising order. -/
theorem dispatchFillsThePool : Obligations.DispatchFillsThePool :=
  fun s => ⟨List.range s.arg.m, rfl, List.nodup_range, fun _ => List.mem_range⟩

/-- Settles O43: the two branches of JOIN. -/
theorem joinHoldsUntilEveryRowIsDone : Obligations.JoinHoldsUntilEveryRowIsDone :=
  fun _ => ⟨fun hall => if_pos (isAllRows_iff.mpr hall), fun hno => if_neg fun hall => hno (isAllRows_iff.mp hall)⟩

/-! ### A worker between elements -/

theorem execRowClaim_of_chosen (hw : s.worker = some .idle) (hj : s.seq = .join) {i : Nat} (hi : s.chosenRow = some i) :
    execRowClaim s = .next ({ s with rowsPending := s.rowsPending.erase i }.setWorker (.row i 0 0 none)).drawn := by
  simp only [execRowClaim, hw, if_pos hj, hi]

theorem execRowClaim_of_waiting (hw : s.worker = some .idle) (hno : s.seq ≠ .join ∨ s.rowsPending = []) : execRowClaim s = .next s := by
  by_cases hj : s.seq = .join
  · have hp : s.chosenRow = none := by simp [State.chosenRow, hno.resolve_left (not_not.mpr hj)]
    simp only [execRowClaim, hw, if_pos hj, hp]
  · simp only [execRowClaim, hw, if_neg hj]

/-- Settles O44: the row chosen is a pending one. -/
theorem rowClaimTakesAPendingRow : Obligations.RowClaimTakesAPendingRow := by
  refine ⟨fun s hw hj hne => ?_, fun s => execRowClaim_of_waiting⟩
  obtain ⟨hnil, -⟩ | ⟨i, hi, hc⟩ := chosenRow_cases s
  · exact absurd hnil hne
  · exact ⟨i, hi, execRowClaim_of_chosen hw hj hc⟩

theorem rowUop_elemInit {g : Arg} {j p : Nat} (h : j < g.n) : rowUop g j p none = .elemInit := if_pos h

theorem rowUop_rowDone {g : Arg} {j p : Nat} (h : g.n ≤ j) : rowUop g j p none = .rowDone := if_neg (Nat.not_lt.mpr h)

theorem rowUop_elemStore {g : Arg} {j p : Nat} {v : Single} (h : g.k ≤ p) : rowUop g j p (some v) = .elemStore :=
  (if_neg (by omega)).trans (if_neg (Nat.not_lt.mpr h))

/-- Settles O45: the worker's operand form is that of ELEM_INIT. -/
theorem elemInitStartsTheSum : Obligations.ElemInitStartsTheSum := by
  intro s i j p hw hj
  simp only [exec, execElemInit, hw, if_pos (rowUop_elemInit hj)]
  rfl

/-- Settles O48: the cell set is within ACC. -/
theorem elemStoreWritesItsCell : Obligations.ElemStoreWritesItsCell := by
  intro s i j p v hw hp hcell
  refine ⟨s.acc.set (i * s.arg.n + j) (some v), ?_, List.length_set, cellAt_set_same hcell _, fun e he => cellAt_set_other he _⟩
  simp only [exec, execElemStore, hw, if_pos (rowUop_elemStore hp)]
  rfl

/-- Settles O49: the row is inserted into the set of the rows done. -/
theorem rowDoneAddsTheRow : Obligations.RowDoneAddsTheRow := by
  intro s i j p hw hj
  refine ⟨insertNew i s.rowsDone, ?_, fun r => mem_insertNew, nodup_insertNew⟩
  simp only [exec, execRowDone, hw, if_pos (rowUop_rowDone hj)]
  rfl

/-! ### A worker on an element -/

/-- Settles O47: both cells of the one product are set. -/
theorem mac1AccumulatesOneProduct : Obligations.Mac1AccumulatesOneProduct := by
  intro s i j p v a b hw hp hp8 ha hb
  have hprod : product s i j p (arithNan s.draws 0) = some (fmul (arithNan s.draws 0) a b) := product_eq_some.mpr ⟨a, b, ha, hb, rfl⟩
  simp only [exec, execMac1, hw, if_pos (rowUop_mac1 hp hp8), hprod]
  rfl

/-- Where each product of a group is there, so is the group. -/
theorem products_of_each {nan : Nat → Single} {i j p q cnt : Nat} {x : Nat → Single}
    (h : ∀ e, q ≤ e → e < q + cnt → product s i j (p + e) (nan e) = some (x e)) :
    products s nan i j p q cnt = some ((List.range' q cnt).map x) := by
  induction cnt generalizing q with
  | zero => simp [products]
  | succ cnt ih =>
    have hhead := h q le_rfl (by omega)
    have htail := ih (q := q + 1) fun e hq he => h e (by omega) (by omega)
    simp only [products, hhead, htail, List.range'_succ, List.map_cons]

theorem execGroup8_of_products {i j p : Nat} {v : Single} {ps : List Single} (hw : s.worker = some (.row i j p (some v)))
    (hp : p + 8 ≤ s.arg.k) (hps : products s (arithNan s.draws) i j p 0 8 = some ps) :
    execGroup8 s = .next (s.setWorker (.row i j (p + 8) (some (combine s.cfg.sumOrder (arithNan s.draws) v ps)))).drawn := by
  simp only [execGroup8, hw, if_pos (rowUop_group8 hp), hps]

/-- Settles O46: the sixteen cells give the eight products, and each SUM_ORDER writes its sum of them out. -/
theorem group8AccumulatesEightProducts : Obligations.Group8AccumulatesEightProducts := by
  intro s i j p v a b hw hp hcells
  have hps : products s (arithNan s.draws) i j p 0 8 = some ((List.range' 0 8).map fun q => fmul (arithNan s.draws q) (a q) (b q)) :=
    products_of_each fun q _ hq => product_eq_some.mpr ⟨a q, b q, (hcells q (by omega)).1, (hcells q (by omega)).2, rfl⟩
  have hx := execGroup8_of_products hw hp hps
  cases ho : s.cfg.sumOrder <;> rw [ho] at hx <;> exact hx

end Sys2Proof.Machine
end

section
/-! PROOFS. Progress of the multiply phase: every worker step counts down, and a running call always has a step of the block. -/

namespace Sys2Proof.Machine

/-- Settles O57: a worker's step counts down or faults, and DISPATCH sets the count. -/
theorem workerStepsCountDown : Obligations.WorkerStepsCountDown :=
  ⟨fun _ _ _ hi hx _ hf => (workLeft_worker hi hx).resolve_left (not_not.mpr hf), fun _ _ hidle hx => workLeft_dispatch hidle hx⟩

variable {s : State}

theorem busy_iff : s.busy = true ↔ s.seq ≠ .idle ∧ s.seq ≠ .done := by
  unfold State.busy
  cases s.seq <;> decide

/-- At JOIN with no row pending and every worker idle, every row is done (spec/42 R147, R148, R155). -/
theorem Consistent.all_done_of_idle (h : Consistent s) (hj : s.seq = .join) (hp : s.rowsPending = []) (hidle : ∀ x ∈ s.wk, x = .idle)
    (i : Nat) : i ∈ s.rowsDone ↔ i < s.arg.m := by
  have hperm := h.poolAt hj
  rw [hp, filterMap_owned_idle hidle] at hperm
  exact hperm.mem_iff.trans List.mem_range

/-- At JOIN a worker has a step, for a pending row or for its own, or the sequencer has, every row being done. -/
theorem Consistent.ready_at_join (h : Consistent s) (hj : s.seq = .join) : s.sequencerReady = true ∨ ∃ w, s.workerReady w = true := by
  simp only [workerReady_iff, sequencerReady_iff]
  by_cases hp : s.rowsPending = []
  · by_cases hidle : ∀ x ∈ s.wk, x = .idle
    · exact .inl ⟨by simp [hj], by simp [hj], fun _ => h.all_done_of_idle hj hp hidle⟩
    · push Not at hidle
      obtain ⟨x, hx, hrow⟩ := hidle
      obtain ⟨w, hw⟩ := List.getElem?_of_mem hx
      exact .inr ⟨w, hj, x, hw, fun hi => absurd hi hrow⟩
  · have h0 : 0 < s.wk.length := by
      rw [h.workersOk]
      exact h.cfgOk.2
    exact .inr ⟨0, hj, s.wk[0], List.getElem?_eq_getElem h0, fun _ => hp⟩

/-- Settles O58: outside JOIN the sequencer has a step, and at JOIN it or a worker. -/
theorem runningCallIsNeverStuck : Obligations.RunningCallIsNeverStuck := by
  intro s h hb hf
  obtain ⟨hi, hd⟩ := busy_iff.mp hb
  have hready : s.sequencerReady = true ∨ ∃ w, s.workerReady w = true := by
    by_cases hj : s.seq = .join
    · exact h.ready_at_join hj
    · exact .inl (sequencerReady_iff.mpr ⟨hi, hd, fun hj' => absurd hj' hj⟩)
  obtain hr | ⟨w, hr⟩ := hready
  · exact ⟨.sequencer, sequencer_mem_agents.mpr ⟨hf, hr⟩, nofun⟩
  · exact ⟨.worker w, worker_mem_agents.mpr ⟨hf, hr⟩, nofun⟩

end Sys2Proof.Machine
end

section
/-! PROOFS. The shape_validator: the lengths lenOK accepts, and what the check does with any other. -/

namespace Sys2Proof.Machine

/-- Settles O24: the expected length is the exact product or SAT, and only MAXIMAL lets SAT match a length, SIZE_MAX (spec/43 R176). -/
theorem lengthPredicateIsExact : Obligations.LengthPredicateIsExact := by
  intro c len rows cols
  unfold lenOK
  rw [Nat.mul_assoc, expectedLen_eq]
  by_cases hover : c.sizeMax < 2 * (rows * cols)
  · cases hr : c.satReading <;> simp [hover, Nat.not_le.mpr hover]
  · simp [hover, Nat.not_lt.mp hover]

/-- A length other than the expected one, or an expected length that does not fit, is a SAT_MATCH fault in its one case and BadArgument
in every other (spec/43 R177 to R179). -/
theorem validate_of_other_length {s : State} {here : Seq} {len rows cols : Nat}
    (hother : len ≠ 2 * rows * cols ∨ s.cfg.sizeMax < 2 * rows * cols) :
    s.validate here len rows cols =
      if s.cfg.sizeMax < 2 * rows * cols ∧ s.cfg.satReading = .maximal ∧ len = s.cfg.sizeMax then s.raiseFault .satMatch
      else s.raiseFailure codeBadArgument := by
  have hmatch := satMatches_iff s.cfg len rows cols
  rw [← Nat.mul_assoc] at hmatch
  unfold State.validate
  by_cases hs : satMatches s.cfg len rows cols = true
  · rw [if_pos hs, if_pos (hmatch.mp hs)]
  · have hbad : ¬ lenOK s.cfg len rows cols = true := by
      rw [lengthPredicateIsExact]
      rintro (⟨hfit, hl⟩ | hsat)
      · exact hother.elim (· hl) (Nat.not_lt.mpr hfit)
      · exact hs (hmatch.mpr hsat)
    rw [if_neg hs, if_neg hbad, if_neg (mt hmatch.mpr hs)]

/-- Settles O26: VALIDATE_A and VALIDATE_B are the one check, on their own buffer and shape. -/
theorem otherLengthsFail : Obligations.OtherLengthsFail := fun _ =>
  ⟨fun h => congrArg Host.Outcome.next (validate_of_other_length h), fun h => congrArg Host.Outcome.next (validate_of_other_length h)⟩

end Sys2Proof.Machine
end

section
/-! PROOFS. The encoder's SIZE_OUT: twice m*n, where SIZE_MAX holds it. -/

namespace Sys2Proof.Machine

theorem nextSeq_sizeOut (o : CheckOrder) : nextSeq o .sizeOut = if o = .validateFirst then .alloc else .validateA := by cases o <;> rfl

/-- Settles O27: the two checked products fit exactly when 2mn does, and next(SIZE_OUT) is R112's. -/
theorem sizeOutComputesOrOverflows : Obligations.SizeOutComputesOrOverflows := by
  refine ⟨fun s hfit => ?_, fun s hover => ?_⟩
  · rw [Nat.mul_assoc] at hfit ⊢
    rw [← nextSeq_sizeOut]
    exact execSizeOut_eq.trans (if_neg (Nat.not_lt.mpr hfit))
  · rw [Nat.mul_assoc] at hover
    exact execSizeOut_eq.trans (if_pos hover)

end Sys2Proof.Machine
end

section
/-! PROOFS. ENC16 case by case, and ENC16 after DEC16: each case of the decoder lands in the case of the encoder that undoes it. -/

namespace Sys2Proof

variable {x : Single} {h : Half}

/-! ### ENC16 case by case (spec/44 R189) -/

theorem enc16_of_inf (mode : NanMap) (hinf : Single.isInf x = true) : enc16 mode x = Half.pack (Single.sign x) 31 0 := by
  obtain ⟨he, hf⟩ := of_decide_eq_true hinf
  simp only [enc16, he, hf, if_true]

theorem enc16_of_large (mode : NanMap) (hfin : Single.isFinite x = true) (he : 142 < Single.exp x) :
    enc16 mode x = Half.pack (Single.sign x) 31 0 := by
  have h255 : Single.exp x ≠ 255 := of_decide_eq_true hfin
  simp only [enc16, if_neg h255, if_neg (show Single.exp x ≠ 0 by omega), if_pos he]

theorem enc16_of_normal (mode : NanMap) (hlo : 113 ≤ Single.exp x) (hhi : Single.exp x ≤ 142) :
    enc16 mode x = Half.pack (Single.sign x) (Single.exp x - 112) (roundEven (Single.frac x) 13) := by
  simp only [enc16, if_neg (show Single.exp x ≠ 255 by omega), if_neg (show Single.exp x ≠ 0 by omega), if_neg (Nat.not_lt.mpr hhi),
    if_pos hlo]

theorem enc16_of_subnormal (mode : NanMap) (hlo : 102 ≤ Single.exp x) (hhi : Single.exp x < 113) :
    enc16 mode x = Half.pack (Single.sign x) 0 (roundEven (2 ^ 23 + Single.frac x) (126 - Single.exp x)) := by
  simp only [enc16, if_neg (show Single.exp x ≠ 255 by omega), if_neg (show Single.exp x ≠ 0 by omega),
    if_neg (show ¬142 < Single.exp x by omega), if_neg (Nat.not_le.mpr hhi), if_neg (Nat.not_lt.mpr hlo)]

theorem enc16_of_tiny (mode : NanMap) (he : Single.exp x < 102) : enc16 mode x = Half.pack (Single.sign x) 0 0 := by
  simp only [enc16, if_neg (show Single.exp x ≠ 255 by omega), if_neg (show ¬142 < Single.exp x by omega),
    if_neg (show ¬113 ≤ Single.exp x by omega), if_pos he, ite_self]

/-! ### ENC16 after DEC16 (spec/44 R194) -/

/-- ENC16 of an infinity DEC16 makes. -/
theorem enc16_dec16_of_inf (up down : NanMap) (hinf : Half.isInf h = true) : enc16 down (dec16 up h) = h := by
  obtain ⟨he, hf⟩ := of_decide_eq_true hinf
  obtain ⟨hsign, hinf', -⟩ := decodingIsExact up h (by simp [Half.isNan, hf])
  rw [enc16_of_inf down (hinf'.trans hinf), hsign, ← he, ← hf, Half.pack_fields]

/-- DEC16 shifts a normal fraction up by 13 bits, and rounding those 13 bits off gives it back. -/
theorem enc16_dec16_of_normal (up down : NanMap) (h0 : Half.exp h ≠ 0) (h31 : Half.exp h ≠ 31) : enc16 down (dec16 up h) = h := by
  have hs := Half.sign_lt h
  have he := Half.exp_lt h
  have hf := Half.frac_lt h
  have hb : (Half.exp h + 112) * 2 ^ 23 + Half.frac h * 2 ^ 13 < 2 ^ 31 := by omega
  have hexp : Single.exp (dec16 up h) = Half.exp h + 112 := by
    rw [dec16_of_normal up h0 h31, Single.pack_exp hs hb]
    omega
  have hfrac : Single.frac (dec16 up h) = Half.frac h * 2 ^ 13 := by
    rw [dec16_of_normal up h0 h31, Single.pack_frac hs hb]
    omega
  rw [enc16_of_normal down (by omega) (by omega), hexp, hfrac, roundEven_exact, dec16_of_normal up h0 h31, Single.pack_sign hs hb,
    Nat.add_sub_cancel, Half.pack_fields]

/-- DEC16 normalizes a subnormal fraction, and ENC16 shifts it back by as much. -/
theorem enc16_dec16_of_subnormal (up down : NanMap) (h0 : Half.exp h = 0) (hf0 : Half.frac h ≠ 0) : enc16 down (dec16 up h) = h := by
  have hs := Half.sign_lt h
  have ht : Nat.log2 (Half.frac h) < 10 := (Nat.log2_lt hf0).mpr (Half.frac_lt h)
  have hmod : Half.frac h * 2 ^ (23 - Nat.log2 (Half.frac h)) % 2 ^ 23 < 2 ^ 23 := Nat.mod_lt _ (by decide)
  have hb : (Nat.log2 (Half.frac h) + 103) * 2 ^ 23 + Half.frac h * 2 ^ (23 - Nat.log2 (Half.frac h)) % 2 ^ 23 < 2 ^ 31 := by omega
  have hexp : Single.exp (dec16 up h) = Nat.log2 (Half.frac h) + 103 := by
    rw [dec16_of_subnormal up h0 hf0, Single.pack_exp hs hb, Nat.div_eq_of_lt hmod, Nat.add_zero]
  have hfrac : 2 ^ 23 + Single.frac (dec16 up h) = Half.frac h * 2 ^ (23 - Nat.log2 (Half.frac h)) := by
    rw [dec16_of_subnormal up h0 hf0, Single.pack_frac hs hb, Nat.mod_mod, frac_normalized hf0 (Half.frac_lt h)]
  rw [enc16_of_subnormal down (by omega) (by omega), hfrac, hexp,
    show 126 - (Nat.log2 (Half.frac h) + 103) = 23 - Nat.log2 (Half.frac h) by omega, roundEven_exact, dec16_of_subnormal up h0 hf0,
    Single.pack_sign hs hb, ← h0, Half.pack_fields]

theorem enc16_dec16_of_zero (up down : NanMap) (h0 : Half.exp h = 0) (hf0 : Half.frac h = 0) : enc16 down (dec16 up h) = h := by
  have hs := Half.sign_lt h
  have hb : 0 * 2 ^ 23 + 0 < 2 ^ 31 := by decide
  calc enc16 down (dec16 up h)
      = Half.pack (Half.sign h) 0 0 := by
        rw [dec16_of_zero up h0 hf0, enc16_of_tiny down (by rw [Single.pack_exp hs hb]; decide), Single.pack_sign hs hb]
    _ = Half.pack (Half.sign h) (Half.exp h) (Half.frac h) := by rw [h0, hf0]
    _ = h := Half.pack_fields h

/-- The top ten bits of a widened payload are the payload, its quiet bit set. -/
theorem widenedPayload_top (h : Half) : widenedPayload h / 2 ^ 13 = 2 ^ 9 ||| Half.frac h := by
  rw [widenedPayload, Nat.or_div_two_pow, Nat.mul_div_cancel _ (by decide)]
  rfl

/-- A NaN comes back from the default maps with its quiet bit set. -/
theorem enc16_dec16_of_nan (hn : Half.isNan h = true) : enc16 .quieting (dec16 .quieting h) = h ||| 0x0200 := by
  have hs := Half.sign_lt h
  have hw := widenedPayload_lt h
  have hb : 255 * 2 ^ 23 + widenedPayload h < 2 ^ 31 := by omega
  obtain ⟨he, -⟩ := of_decide_eq_true hn
  obtain ⟨hnan, hsign⟩ := nan16to32_isNan .quieting h
  have hpay : narrowedPayload (nan16to32 .quieting h) = 2 ^ 9 ||| Half.frac h := by
    rw [narrowedPayload, nan16to32_quieting, Single.pack_frac hs hb, Nat.mod_eq_of_lt hw, widenedPayload_top, ← Nat.or_assoc, Nat.or_self]
  have hp : 2 ^ 9 ||| Half.frac h < 2 ^ 10 := hpay ▸ narrowedPayload_lt _
  rw [dec16_of_nan _ hn, enc16_of_nan _ hnan, nan32to16_quieting, hsign, hpay]
  apply BitVec.eq_of_toNat_eq
  calc (Half.pack (Half.sign h) 31 (2 ^ 9 ||| Half.frac h)).toNat
      = Half.sign h * 2 ^ 15 ||| (31 * 2 ^ 10 ||| (2 ^ 9 ||| Half.frac h)) := by
        rw [Half.pack_toNat hs (by omega), fields_or hp (by omega)]
    _ = Half.sign h * 2 ^ 15 ||| (31 * 2 ^ 10 ||| Half.frac h) ||| 2 ^ 9 := by ac_rfl
    _ = h.toNat ||| 2 ^ 9 := by
        have hf := Half.frac_lt h
        rw [fields_or hf (by omega), ← Half.pack_toNat hs (by omega), ← he, Half.pack_fields]
    _ = (h ||| 0x0200).toNat := by
        rw [BitVec.toNat_or]
        rfl

/-- Settles O34: an infinity, a zero, a subnormal and a normal pattern each come back from their own cases. -/
theorem decodeThenEncodeReturnsThePattern : Obligations.DecodeThenEncodeReturnsThePattern := by
  refine ⟨fun up down h hn => ?_, fun h hn => enc16_dec16_of_nan hn⟩
  by_cases h31 : Half.exp h = 31
  · exact enc16_dec16_of_inf up down (by simpa [Half.isNan, Half.isInf, h31] using hn)
  by_cases h0 : Half.exp h = 0
  · by_cases hf0 : Half.frac h = 0
    · exact enc16_dec16_of_zero up down h0 hf0
    · exact enc16_dec16_of_subnormal up down h0 hf0
  · exact enc16_dec16_of_normal up down h0 h31

end Sys2Proof
end

section
/-! PROOFS. ENC16 is round to nearest, ties to even: like fl32 it rounds to a grid, of 11 bits and with 2^-24 for its smallest step, and the
finite halves are on that grid or below it. -/

namespace Sys2Proof

variable {x : Single} {mag sh d c : Nat}

/-! ### Rounding to the nearest integer -/

/-- A bound of whole steps, above or below, passes through rounding. -/
theorem roundEven_le (h : mag ≤ c * 2 ^ sh) : roundEven mag sh ≤ c := by
  obtain ⟨-, hhi, -⟩ := roundEven_spec mag sh
  have hw := Nat.two_pow_pos sh
  have : roundEven mag sh * 2 ^ sh < (c + 1) * 2 ^ sh := by
    rw [Nat.succ_mul]
    omega
  exact Nat.lt_succ_iff.mp (Nat.lt_of_mul_lt_mul_right this)

theorem le_roundEven (h : c * 2 ^ sh ≤ mag) : c ≤ roundEven mag sh := by
  obtain ⟨hlo, -, -⟩ := roundEven_spec mag sh
  have hw := Nat.two_pow_pos sh
  have : c * 2 ^ sh < (roundEven mag sh + 1) * 2 ^ sh := by
    have hr : (2 * roundEven mag sh + 1) * 2 ^ sh = 2 * (roundEven mag sh * 2 ^ sh) + 2 ^ sh := by ring
    rw [Nat.succ_mul]
    omega
  exact Nat.lt_succ_iff.mp (Nat.lt_of_mul_lt_mul_right this)

/-- Less than half a step rounds to 0. -/
theorem roundEven_eq_zero (h : 2 * mag < 2 ^ sh) : roundEven mag sh = 0 := by
  obtain ⟨-, hhi, -⟩ := roundEven_spec mag sh
  refine Nat.eq_zero_of_not_pos fun hpos => ?_
  have := Nat.le_mul_of_pos_left (2 ^ sh) hpos
  omega

/-- Rounding to a step does not depend on the unit. -/
theorem roundEven_mul_pow (mag sh k : Nat) : roundEven (mag * 2 ^ k) (sh + k) = roundEven mag sh := by
  have hk := Nat.two_pow_pos k
  have hcmp : ∀ a b : Nat, a * 2 ^ k < 2 * (b * 2 ^ k) ↔ a < 2 * b := fun a b => by rw [← Nat.mul_assoc, Nat.mul_lt_mul_right hk]
  have htie : ∀ a b : Nat, 2 * (b * 2 ^ k) = a * 2 ^ k ↔ 2 * b = a := fun a b => by rw [← Nat.mul_assoc, Nat.mul_left_inj hk.ne']
  simp only [roundEven, pow_add, Nat.mul_div_mul_right _ _ hk, Nat.mul_mod_mul_right, hcmp, htie]

/-- An even number of whole steps passes through rounding. -/
theorem roundEven_add_even {q : Nat} (hq : q % 2 = 0) (mag sh : Nat) : roundEven (q * 2 ^ sh + mag) sh = q + roundEven mag sh := by
  have hpar : (mag / 2 ^ sh + q) % 2 = mag / 2 ^ sh % 2 := by omega
  simp only [roundEven, Nat.add_comm (q * 2 ^ sh), Nat.add_mul_div_right _ _ (Nat.two_pow_pos sh),
    Nat.add_mul_mod_self_right, hpar]
  split <;> omega

/-- What is a multiple of the step, or under some multiple that is under the magnitude, is no nearer than the rounded count of steps, and
one as near leaves an even count. -/
theorem roundEven_nearest_of {a : Nat} (h : (∃ z, a = z * 2 ^ sh) ∨ (a < c * 2 ^ sh ∧ c * 2 ^ sh ≤ mag)) :
    distance mag (roundEven mag sh * 2 ^ sh) ≤ distance mag a ∧
    (distance mag (roundEven mag sh * 2 ^ sh) = distance mag a → a ≠ roundEven mag sh * 2 ^ sh → roundEven mag sh % 2 = 0) := by
  obtain ⟨z, rfl⟩ | ⟨hlt, hle⟩ := h
  · obtain ⟨hnear, heven⟩ := roundEven_nearest mag sh z
    exact ⟨hnear, fun heq hne => heven heq fun hz => hne (by rw [hz])⟩
  · have hnear := (roundEven_nearest mag sh c).1
    unfold distance at *
    omega

/-! ### The grid ENC16 rounds to -/

/-- The bits below the sign that ENC16 makes of a magnitude (in units of 2^-149) for the step 2^d * 2^-24, 2^125 units being 2^-24: a field
for the step, with the rounded count of steps carried into it. -/
def narrowedBits (mag d : Nat) : Nat := d * 2 ^ 10 + roundEven mag (125 + d)

/-- The magnitude is under 2^11 steps of 2^d * 2^-24 and, unless the step is 2^-24 itself, has 2^10 of them. -/
structure HalfStep (mag d : Nat) : Prop where
  lt : mag < 2 ^ 11 * 2 ^ (125 + d)
  le : d = 0 ∨ 2 ^ 10 * 2 ^ (125 + d) ≤ mag

theorem Single.mag_lt (x : Single) : Single.mag x < 2 ^ 24 * 2 ^ (Single.exp x - 1) := by
  have hf := Single.frac_lt x
  have hp := Nat.two_pow_pos (Single.exp x - 1)
  unfold Single.mag
  split
  · omega
  · exact Nat.mul_lt_mul_of_pos_right (by omega) hp

/-- The step of a finite magnitude: 11 bits of a normal half, and 2^-24 from the field 113 (2^-14) down. -/
theorem halfStep_mag (x : Single) : HalfStep (Single.mag x) (Single.exp x - 113) := by
  refine ⟨(Single.mag_lt x).trans_le ?_, ?_⟩
  · rw [← pow_add, ← pow_add]
    exact Nat.pow_le_pow_right (by omega) (by omega)
  · obtain he | he := le_or_gt (Single.exp x) 113
    · exact .inl (by omega)
    · right
      rw [Single.mag, if_neg (by omega), ← pow_add, show 10 + (125 + (Single.exp x - 113)) = 23 + (Single.exp x - 1) by omega, pow_add]
      exact Nat.mul_le_mul_right _ (Nat.le_add_right ..)

/-- At most 11 bits are kept, and 11 where the step is not the smallest. -/
theorem HalfStep.roundEven_bounds (h : HalfStep mag d) : roundEven mag (125 + d) ≤ 2 ^ 11 ∧ (d = 0 ∨ 2 ^ 10 ≤ roundEven mag (125 + d)) :=
  ⟨roundEven_le h.lt.le, h.le.imp_right le_roundEven⟩

/-- The bits reach the exponent field 31 from 65520 = 4095 * 2^4 on: under the step 2^5 (`d = 29`) that is half a step below 2^11 steps, a tie
that goes up. -/
theorem HalfStep.overflow_iff (h : HalfStep mag d) : 31 * 2 ^ 10 ≤ narrowedBits mag d ↔ 65520 * 2 ^ 149 ≤ mag := by
  obtain ⟨hr, hr'⟩ := h.roundEven_bounds
  obtain ⟨hlt, hle⟩ := h
  unfold narrowedBits
  obtain hd | rfl | hd : d ≤ 28 ∨ d = 29 ∨ 30 ≤ d := by omega
  · have hw : 2 ^ (125 + d) ≤ 2 ^ (125 + 28) := Nat.pow_le_pow_right (by omega) (by omega)
    omega
  · obtain ⟨hlo, hhi, heven⟩ := roundEven_spec mag (125 + 29)
    omega
  · have hw : 2 ^ (125 + 30) ≤ 2 ^ (125 + d) := Nat.pow_le_pow_right (by omega) (by omega)
    omega

/-! ### ENC16 in one line -/

/-- A pattern is known by its sign and the bits below it. -/
theorem Half.pack_congr {s e f e' f' : Nat} (h : e * 2 ^ 10 + f = e' * 2 ^ 10 + f') : Half.pack s e f = Half.pack s e' f' := by
  rw [Half.pack, Half.pack, Nat.add_assoc, h, Nat.add_assoc]

/-- A normal half's bits: the field less one stands for the step, its implicit bit having been rounded with the fraction. -/
theorem narrowedBits_of_normal (he : 113 ≤ Single.exp x) :
    narrowedBits (Single.mag x) (Single.exp x - 113) = (Single.exp x - 112) * 2 ^ 10 + roundEven (Single.frac x) 13 := by
  rw [narrowedBits, Single.mag, if_neg (by omega), show 125 + (Single.exp x - 113) = 13 + (Single.exp x - 1) by omega, roundEven_mul_pow,
    show 2 ^ 23 = 2 ^ 10 * 2 ^ 13 by decide, roundEven_add_even (by decide)]
  omega

theorem narrowedBits_of_subnormal (hlo : 102 ≤ Single.exp x) (hhi : Single.exp x < 113) :
    narrowedBits (Single.mag x) (Single.exp x - 113) = roundEven (2 ^ 23 + Single.frac x) (126 - Single.exp x) := by
  rw [narrowedBits, Single.mag, if_neg (by omega), show Single.exp x - 113 = 0 by omega,
    show 125 + 0 = 126 - Single.exp x + (Single.exp x - 1) by omega, roundEven_mul_pow]
  omega

/-- Under 2^-25 the magnitude is under half of the smallest step. -/
theorem narrowedBits_of_tiny (he : Single.exp x < 102) : narrowedBits (Single.mag x) (Single.exp x - 113) = 0 := by
  have hm := Single.mag_lt x
  have hp : 2 ^ (Single.exp x - 1) ≤ 2 ^ 100 := Nat.pow_le_pow_right (by omega) (by omega)
  rw [narrowedBits, show Single.exp x - 113 = 0 by omega, roundEven_eq_zero (by omega), Nat.zero_mul]

/-- Up to the field 142 the normal, the subnormal and the vanishing results are one rounding to the grid. -/
theorem enc16_eq_pack_narrowedBits (mode : NanMap) (he : Single.exp x ≤ 142) :
    enc16 mode x = Half.pack (Single.sign x) 0 (narrowedBits (Single.mag x) (Single.exp x - 113)) := by
  obtain htiny | hlo := Nat.lt_or_ge (Single.exp x) 102
  · rw [narrowedBits_of_tiny htiny, enc16_of_tiny mode htiny]
  obtain hsub | hnorm := Nat.lt_or_ge (Single.exp x) 113
  · rw [narrowedBits_of_subnormal hlo hsub, enc16_of_subnormal mode hlo hsub]
  · rw [narrowedBits_of_normal hnorm, enc16_of_normal mode hnorm he]
    exact Half.pack_congr (by omega)

/-- ENC16 of a finite pattern, as `fl32_eq` has it of fl32: the rounded bits, or infinity where they overflow. -/
theorem enc16_of_finite (mode : NanMap) (hfin : Single.isFinite x = true) :
    enc16 mode x =
      if 31 * 2 ^ 10 ≤ narrowedBits (Single.mag x) (Single.exp x - 113) then Half.pack (Single.sign x) 31 0
      else Half.pack (Single.sign x) 0 (narrowedBits (Single.mag x) (Single.exp x - 113)) := by
  obtain ⟨hr, hr'⟩ := (halfStep_mag x).roundEven_bounds
  obtain he | he := le_or_gt (Single.exp x) 142
  · rw [enc16_eq_pack_narrowedBits mode he]
    split
    · refine Half.pack_congr ?_
      unfold narrowedBits at *
      omega
    · rfl
  · rw [enc16_of_large mode hfin he, if_pos]
    unfold narrowedBits
    omega

/-! ### The finite halves on the grid -/

/-- The magnitude of the pattern with these bits below the sign, a carry having gone into the exponent's field. -/
theorem Half.mag_pack_bits {s r : Nat} (hs : s < 2) (hr : r ≤ 2 ^ 11) (hr' : d = 0 ∨ 2 ^ 10 ≤ r) (hb : d * 2 ^ 10 + r < 31 * 2 ^ 10) :
    Half.mag (Half.pack s 0 (d * 2 ^ 10 + r)) = r * 2 ^ d := by
  have hfit : 0 * 2 ^ 10 + (d * 2 ^ 10 + r) < 2 ^ 15 := by rw [Nat.zero_mul]; omega
  rw [Half.mag, Half.pack_exp hs hfit, Half.pack_frac hs hfit]
  obtain hlow | hmid | rfl : r < 2 ^ 10 ∨ (2 ^ 10 ≤ r ∧ r < 2 ^ 11) ∨ r = 2 ^ 11 := by omega
  · obtain rfl : d = 0 := by omega
    rw [if_pos (by omega)]
    omega
  · rw [if_neg (by omega), show 0 + (d * 2 ^ 10 + r) / 2 ^ 10 - 1 = d by omega, show 2 ^ 10 + (d * 2 ^ 10 + r) % 2 ^ 10 = r by omega]
  · rw [if_neg (by omega), show 0 + (d * 2 ^ 10 + 2 ^ 11) / 2 ^ 10 - 1 = d + 1 by omega,
      show 2 ^ 10 + (d * 2 ^ 10 + 2 ^ 11) % 2 ^ 10 = 2 ^ 10 by omega, pow_succ]
    omega

/-- A finite half is a multiple of the step, or it is of fewer bits and below everything rounded to that step. -/
theorem HalfStep.mag_on_grid (h : HalfStep mag d) {y : Half} (hy : Half.isFinite y = true) :
    (∃ z, Half.mag y * 2 ^ 125 = z * 2 ^ (125 + d)) ∨
      (Half.mag y * 2 ^ 125 < 2 ^ 10 * 2 ^ (125 + d) ∧ 2 ^ 10 * 2 ^ (125 + d) ≤ mag) := by
  obtain ⟨c, e, hc, -, hm⟩ := Half.mag_eq_mul_pow hy
  rw [hm]
  obtain hde | hed := le_or_gt d e
  · refine .inl ⟨c * 2 ^ (e - d), ?_⟩
    rw [mul_assoc, mul_assoc, ← pow_add, ← pow_add, show e + 125 = e - d + (125 + d) by omega]
  · refine .inr ⟨?_, h.le.resolve_left (by omega)⟩
    calc c * 2 ^ e * 2 ^ 125
        < 2 ^ 11 * 2 ^ e * 2 ^ 125 := Nat.mul_lt_mul_of_pos_right (Nat.mul_lt_mul_of_pos_right hc (Nat.two_pow_pos e)) (by decide)
      _ = 2 ^ 10 * (2 ^ (125 + (e + 1))) := by ring
      _ ≤ 2 ^ 10 * 2 ^ (125 + d) := Nat.mul_le_mul_left _ (Nat.pow_le_pow_right (by omega) (by omega))

/-- Settles O40: under the overflow the bits are those of the rounded count of steps, which is nearest. -/
theorem narrowingIsToNearestEven : Obligations.NarrowingIsToNearestEven := by
  intro mode x hfin
  have hs := Single.sign_lt x
  have hg := halfStep_mag x
  have henc := enc16_of_finite mode hfin
  have hover := hg.overflow_iff
  obtain ⟨hr, hr'⟩ := hg.roundEven_bounds
  generalize Single.exp x - 113 = d at *
  obtain hb | hb := le_or_gt (31 * 2 ^ 10) (narrowedBits (Single.mag x) d)
  · rw [if_pos hb] at henc
    refine ⟨by rw [henc, Half.pack_sign hs (by decide)], fun _ => henc, fun hlt => ?_⟩
    exact absurd (hover.mp hb) (Nat.not_le.mpr hlt)
  · rw [if_neg (Nat.not_le.mpr hb)] at henc
    have hmag : Half.mag (enc16 mode x) = roundEven (Single.mag x) (125 + d) * 2 ^ d := by
      rw [henc]
      exact Half.mag_pack_bits hs hr hr' hb
    have hfrac : Half.frac (enc16 mode x) % 2 = roundEven (Single.mag x) (125 + d) % 2 := by
      rw [henc, Half.pack_frac hs (by omega), narrowedBits]
      omega
    refine ⟨by rw [henc, Half.pack_sign hs (by omega)], fun h => absurd (hover.mpr h) (Nat.not_le.mpr hb), fun _ => ⟨?_, fun y hy => ?_⟩⟩
    · rw [henc, Half.isFinite, Half.pack_exp hs (by omega)]
      exact decide_eq_true (by omega)
    · have hw : roundEven (Single.mag x) (125 + d) * 2 ^ (125 + d) = Half.mag (enc16 mode x) * 2 ^ 125 := by rw [hmag]; ring
      obtain ⟨hnear, heven⟩ := roundEven_nearest_of (hg.mag_on_grid hy)
      rw [hw] at hnear heven
      rw [hfrac]
      exact ⟨hnear, fun heq hne => heven heq fun h => hne (Nat.eq_of_mul_eq_mul_right (by decide) h)⟩

end Sys2Proof
end

section
/-! PROOFS. The model faults and the Other step: a faulted state has no step but the host's, and none that performs a command; and the Other
step itself. -/

namespace Sys2Proof.Machine

variable {s : State}

/-- Once a model fault is recorded only the host can move (spec/60 R212). -/
theorem mover_eq_host_of_faults {g : Agent} (hf : s.faults ≠ []) (hm : s.mover = some g) : g = .host := by
  by_contra hg
  obtain ⟨hnone, -⟩ := blockAgent_ready (mover_mem hm) hg
  exact hf hnone

/-- A command written to CMD after a model fault is not performed: the machine stops with the oldest fault recorded (spec/60 R212; log 1). -/
theorem writeCmd_of_faults {w : BitVec 32} {i : Instr} {k : FaultKind} {ks : List FaultKind} (hf : s.faults = k :: ks)
    (hd : decode (.cmd32 w) = .ok i) : writeCmd w s = .fault (.halted k) := by
  simp only [writeCmd, hd, hf]

theorem rest_of_faults {k : FaultKind} {ks : List FaultKind} (hf : s.faults = k :: ks) : s.rest = .fault (.halted k) := by
  simp only [State.rest, hf]

theorem rest_of_no_fault (hf : s.faults = []) : s.rest = .next s := by
  simp only [State.rest, hf]

/-- Settles O7: the block's agents are ready only without a fault, and a command or a rest looks at the oldest one. -/
theorem faultedBlockTakesNoStep : Obligations.FaultedBlockTakesNoStep := by
  refine ⟨fun _ _ => mover_eq_host_of_faults, fun s k ks w rest i hf hm hq hd => ?_, fun s k ks hf hm => ?_, fun s hf hm => ?_⟩
  · rw [step_of_mover hm, runAgent, hostStep, State.tick_host, hq]
    exact writeCmd_of_faults (s := s.tick.popHost) hf hd
  · exact (step_of_no_mover hm).trans (rest_of_faults hf)
  · exact (step_of_no_mover hm).trans (rest_of_no_fault hf)

/-- Settles O9: the choice of the next agent takes the first of the two draws, the message the second. -/
theorem otherStepEndsTheCall : Obligations.OtherStepEndsTheCall := by
  intro s hm
  have hother : s.tick.other =
      { s.tick with failCode := 4, msg := Config.otherMessage (s.draws + 1), seq := .respondFail, draws := s.draws + 2 } := rfl
  rw [step_of_mover hm, runAgent, hother]

end Sys2Proof.Machine
end
